-- ==== Sys2Proof/Word.lean ====
section
/-! DEFINITION. The word types of the unit and the data type of a binary64 number (spec 10_state R18, R20; 43_layer1_decoder R138). -/

namespace Sys2Proof

/-- A 32-bit register of the host window (10_state R25). -/
abbrev Word := BitVec 32

/-- A byte of the source (20_memory R40). -/
abbrev Byte := BitVec 8

/-- A command word (30_encoding R60). -/
abbrev CmdWord := BitVec 16

/-- A finite binary64 number by its fields: sign, biased exponent (2047 is not finite), fraction. -/
structure FiniteF64 where
  neg  : Bool
  expo : Fin 2047
  frac : BitVec 52
  deriving DecidableEq, Repr, Inhabited

/-- A binary64 value. All NaNs are one value: no rule tells them apart and R142 excludes them. -/
inductive F64 where
  | finite (x : FiniteF64)
  | inf (neg : Bool)
  | nan
  deriving DecidableEq, Repr, Inhabited

end Sys2Proof
end

