-- ==== Sys2Proof/Syntax.lean ====
section
/-! DEFINITION. The nine commands of the opcode table (spec 30_encoding R61, opcode_table.json). -/

namespace Sys2Proof

/-- One constructor per row of `spec/opcode_table.json`. `rdbits` carries the operand byte `n` as it stands (R62). -/
inductive Instr where
  | reset
  | peek
  | rdbits (n : BitVec 8)
  | parse
  | scan
  | rdalloc
  | rdscf
  | rdsmp
  | decl1
  deriving DecidableEq, Repr

end Sys2Proof
end

