-- ==== Sys2Proof/WellFormed.lean ====
section
/-! DEFINITION. Which instructions obey the interface contract of their operand (spec 30_encoding R62). -/

namespace Sys2Proof

/-- "The legal values are the document's `n: 1..=32`" (R62). An ill-formed RDBITS still decodes, and is
rejected with INVALID_WIDTH when it runs (R83). The other commands have no operand. -/
def Instr.wellFormed : Instr → Bool
  | .rdbits n => decide (1 ≤ n.toNat ∧ n.toNat ≤ 32)
  | .reset => true
  | .peek => true
  | .parse => true
  | .scan => true
  | .rdalloc => true
  | .rdscf => true
  | .rdsmp => true
  | .decl1 => true

end Sys2Proof
end

