-- ==== Sys2Proof/Decode.lean ====
section
/-! DEFINITION. The command decoder, total on 16-bit words, and after it the encoder (spec 30_encoding R60 to R63). -/

namespace Sys2Proof

/-- Why a command word is no command (30_encoding R63). -/
inductive DecodeError where
  /-- `op` in 0x09..0xFF. -/
  | reservedOpcode
  /-- `op` other than 0x02 with `n != 0`. -/
  | operandNotZero
  deriving DecidableEq, Repr

/-- Field `op`, bits 15:8 (R60). -/
def opField (w : CmdWord) : BitVec 8 := w.extractLsb' 8 8

/-- Field `n`, bits 7:0 (R60). -/
def nField (w : CmdWord) : BitVec 8 := w.extractLsb' 0 8

/-- A command without operand: `n` "must be 0 for every other command" (R60). -/
def decodePlain (i : Instr) (n : BitVec 8) : Except DecodeError Instr :=
  if n = 0 then .ok i else .error .operandNotZero

/-- The opcode map of R61. -/
def decode (w : CmdWord) : Except DecodeError Instr :=
  match (opField w).toNat with
  | 0x00 => decodePlain .reset (nField w)
  | 0x01 => decodePlain .peek (nField w)
  | 0x02 => .ok (.rdbits (nField w))
  | 0x03 => decodePlain .parse (nField w)
  | 0x04 => decodePlain .scan (nField w)
  | 0x05 => decodePlain .rdalloc (nField w)
  | 0x06 => decodePlain .rdscf (nField w)
  | 0x07 => decodePlain .rdsmp (nField w)
  | 0x08 => decodePlain .decl1 (nField w)
  | _ => .error .reservedOpcode

/-- The opcode of each command (R61). -/
def opcodeOf : Instr → BitVec 8
  | .reset => 0x00
  | .peek => 0x01
  | .rdbits _ => 0x02
  | .parse => 0x03
  | .scan => 0x04
  | .rdalloc => 0x05
  | .rdscf => 0x06
  | .rdsmp => 0x07
  | .decl1 => 0x08

/-- The operand byte of each command (R60, R62). -/
def operandOf : Instr → BitVec 8
  | .rdbits n => n
  | .reset => 0
  | .peek => 0
  | .parse => 0
  | .scan => 0
  | .rdalloc => 0
  | .rdscf => 0
  | .rdsmp => 0
  | .decl1 => 0

/-- The command word of an instruction (R60). -/
def encode (i : Instr) : CmdWord := opcodeOf i ++ operandOf i

/-- The instruction the decoder reads from the table's word `w` of `nbits` bits: one command word, whose
bits are numbered as in the table (R60); bits above `nbits` are 0. -/
def decodeTableWord (nbits w : Nat) : Option Instr :=
  match decode (BitVec.ofNat 16 (w % 2 ^ nbits)) with
  | .ok i => some i
  | .error _ => none

end Sys2Proof
end

