-- ==== Sys2Proof/Machine/State.lean ====
section
/-! DEFINITION. The state of one MP3L1FE instance (spec 10_state R10) with the source it reads and the host's
pending actions, the reasons a step can stop, and the state after reset (R30). -/

namespace Sys2Proof.Machine

/-- `scan_state` (10_state R13). -/
inductive ScanState where
  | seeking
  | frameFound
  deriving DecidableEq, Repr

/-- `STATUS.CODE`, the outcome of the last command (10_state R22, 60_exceptions R154). -/
inductive Code where
  | ok
  | endOfStream
  | scanEnd
  | invalidWidth
  | illegalCommand
  | cacheNotEmpty
  | sequenceError
  | linearIndexRange
  | streamDead
  deriving DecidableEq, Repr

/-- What the host does at its window (10_state R23, R25) or at the reset input (70_reset R170).
Addresses are the byte addresses of R25. -/
inductive HostAction where
  | write (addr : Nat) (data : Word)
  | read (addr : Nat)
  | resetInput
  deriving DecidableEq, Repr

/-- The parameters `SRC`, `LEN`, `START_POS` (00_scope R4). `mem` lists the nonzero bytes of `SRC` by offset,
rising; an unlisted offset below `len` holds 0. -/
structure Source where
  mem      : List Host.Cell
  len      : Nat
  startPos : Nat
  deriving DecidableEq, Repr

/-- The stream state: BitCache (10_state R11) and byte cursor (R12). -/
structure BitStream where
  cache    : BitVec 7
  cacheLen : BitVec 3
  pos      : Nat
  deriving DecidableEq, Repr

/-- The state (10_state R10). An `Option` is the spec's own "or no value" in R10's table. Entry `(ch, sb)` of
`alloc` and `scf` stands at `32*ch + sb`, entry `(ch, gr, sb)` of `sample` at `(12*ch + gr)*32 + sb`, as in R25. -/
structure State where
  /-- Parameters of the instance; no step changes them (00_scope R4, 20_memory R41). -/
  src       : Source
  /-- `cache`, `cache_len`, `pos` (R11, R12). -/
  stream    : BitStream
  /-- R13. -/
  scanState : ScanState
  /-- `HDR` (R14). -/
  hdr       : Option Word
  /-- `HV` (R14). -/
  hv        : Bool
  /-- `ALLOC` (R16). -/
  alloc     : Vector (Option (BitVec 4)) 64
  /-- `SCF` (R17). -/
  scf       : Vector (Option (BitVec 6)) 64
  /-- `SAMPLE` (R18). -/
  sample    : Vector (Option F64) 768
  /-- `AV` (R16). -/
  av        : Bool
  /-- `SV` (R17). -/
  sv        : Bool
  /-- `MV` (R18). -/
  mv        : Bool
  /-- `NCH` (R19). -/
  nch       : Fin 3
  /-- `WDATA` (R21). -/
  wdata     : Option Word
  /-- `RDATA` (R20). -/
  rdata     : Option Word
  /-- `CODE` (R22). -/
  code      : Code
  /-- `ERR` (R22). -/
  err       : Bool
  /-- `DEAD` (R22). -/
  dead      : Bool
  /-- The model's own: host actions not yet performed, next first (log entry 2). -/
  host      : List HostAction
  /-- The model's own: what the last host read returned (log entry 3). -/
  lastRead  : Option Word
  /-- The model's own: how many free values were drawn (log entry 4). -/
  draws     : Nat
  deriving DecidableEq, Repr

/-- Faults that stop the machine: none. Every outcome of the spec, fatal faults included, leaves the unit
waiting for the next command (60_exceptions R158) and is a next state; nobody raises a `Fault`. -/
inductive Fault where
  deriving DecidableEq, Repr

/-- Refusals. -/
inductive Refusal where
  /-- Raised only by an arm of `exec` for an instruction without a meaning (safe). No arm raises it. -/
  | notModelled (mnemonic : String)
  deriving DecidableEq, Repr

/-- The state after power-on (10_state R30), with the empty source attached (log entry 1). -/
def State.reset : State where
  src       := ⟨[], 0, 0⟩
  stream    := ⟨0, 0, 0⟩
  scanState := .seeking
  hdr       := none
  hv        := false
  alloc     := Vector.replicate 64 none
  scf       := Vector.replicate 64 none
  sample    := Vector.replicate 768 none
  av        := false
  sv        := false
  mv        := false
  nch       := 0
  wdata     := none
  rdata     := none
  code      := .ok
  err       := false
  dead      := false
  host      := []
  lastRead  := none
  draws     := 0

end Sys2Proof.Machine
end

