-- ==== Sys2Proof/Machine/Tables.lean ====
section
/-! DEFINITION. The value sets of the decoded header and the three integer tables of the ROM (spec 41_frame_header
R102 to R109, 00_scope R4), in one place as R106 asks. -/

namespace Sys2Proof.Machine

/-- R102. -/
inductive Version where
  | mpeg25
  | reserved
  | mpeg2
  | mpeg1
  deriving DecidableEq, Repr

/-- R104. -/
inductive Layer where
  | reserved
  | layerIII
  | layerII
  | layerI
  deriving DecidableEq, Repr

/-- The version class that keys the bitrate table (R103). -/
inductive VClass where
  | v1
  | v2
  deriving DecidableEq, Repr

/-- `BITRATE_TABLE` in kbps, codes 1 to 14 from left to right (R106); no row for a reserved layer (D17). -/
def bitrateRow : VClass → Layer → List Nat
  | .v1, .layerI   => [32, 64, 96, 128, 160, 192, 224, 256, 288, 320, 352, 384, 416, 448]
  | .v1, .layerII  => [32, 48, 56, 64, 80, 96, 112, 128, 160, 192, 224, 256, 320, 384]
  | .v1, .layerIII => [32, 40, 48, 56, 64, 80, 96, 112, 128, 160, 192, 224, 256, 320]
  | .v2, .layerI   => [32, 48, 56, 64, 80, 96, 112, 128, 144, 160, 176, 192, 224, 256]
  | .v2, .layerII  => [8, 16, 24, 32, 40, 48, 56, 64, 80, 96, 112, 128, 144, 160]
  | .v2, .layerIII => [8, 16, 24, 32, 40, 48, 56, 64, 80, 96, 112, 128, 144, 160]
  | _, .reserved   => []

/-- `SAMPLERATE_TABLE` in Hz, codes 0 to 2 from left to right (R107); no row for a reserved version (D17). -/
def samplerateRow : Version → List Nat
  | .mpeg1    => [44100, 48000, 32000]
  | .mpeg2    => [22050, 24000, 16000]
  | .mpeg25   => [11025, 12000, 8000]
  | .reserved => []

/-- `FRAME_SAMPLES_TABLE` (R109). -/
def frameSamplesEntry : Layer → Version → Option Nat
  | .layerI,   _         => some 384
  | .layerII,  .reserved => none
  | .layerII,  _         => some 1152
  | .layerIII, .mpeg1    => some 1152
  | .layerIII, .mpeg2    => some 576
  | .layerIII, .mpeg25   => some 576
  | .layerIII, .reserved => none
  | .reserved, _         => none

end Sys2Proof.Machine
end

