-- ==== Sys2Proof/Machine/Header.lean ====
section
/-! DEFINITION. The header view: pure functions of the 32-bit header word (spec 41_frame_header R101 to R111,
30_encoding R64). -/

namespace Sys2Proof.Machine

/-- `IsHeader(w)`: `w[31:21] = 0x7FF` and nothing else (R101). -/
def isHeader (w : Word) : Bool := w.extractLsb' 21 11 == 0x7FF#11

/-- `w[20:19]`. -/
def versionCode (w : Word) : BitVec 2 := w.extractLsb' 19 2

/-- `w[18:17]`. -/
def layerCode (w : Word) : BitVec 2 := w.extractLsb' 17 2

/-- `w[15:12]`. -/
def bitrateCode (w : Word) : BitVec 4 := w.extractLsb' 12 4

/-- `w[11:10]`. -/
def samplerateCode (w : Word) : BitVec 2 := w.extractLsb' 10 2

/-- R102. -/
def version (w : Word) : Version :=
  match (versionCode w).toNat with
  | 0 => .mpeg25
  | 1 => .reserved
  | 2 => .mpeg2
  | _ => .mpeg1

/-- R103. -/
def vclass : Version → Option VClass
  | .mpeg1 => some .v1
  | .mpeg2 => some .v2
  | .mpeg25 => some .v2
  | .reserved => none

/-- R104. -/
def layer (w : Word) : Layer :=
  match (layerCode w).toNat with
  | 0 => .reserved
  | 1 => .layerIII
  | 2 => .layerII
  | _ => .layerI

/-- The protection bit inverted: bit 16 = 0 means a CRC is present (R105). -/
def crcPresent (w : Word) : Bool := !w.getLsbD 16

/-- R106, in kbps. -/
def bitrate (w : Word) : Option Nat :=
  let c := (bitrateCode w).toNat
  if c = 0 ∨ c = 15 then none
  else match vclass (version w) with
    | none => none
    | some k => (bitrateRow k (layer w))[c - 1]?

/-- R107, in Hz. -/
def samplerate (w : Word) : Option Nat :=
  let c := (samplerateCode w).toNat
  if c = 3 then none else (samplerateRow (version w))[c]?

/-- R108. -/
def padding (w : Word) : Bool := w.getLsbD 9

/-- R108. -/
def privateBit (w : Word) : Bool := w.getLsbD 8

/-- R108, codes in 30_encoding R66. -/
def channelMode (w : Word) : BitVec 2 := w.extractLsb' 6 2

/-- R108. -/
def channelModeExtension (w : Word) : BitVec 2 := w.extractLsb' 4 2

/-- R108. -/
def copyright (w : Word) : Bool := w.getLsbD 3

/-- R108. -/
def original (w : Word) : Bool := w.getLsbD 2

/-- R108. -/
def emphasis (w : Word) : BitVec 2 := w.extractLsb' 0 2

/-- R109. -/
def frameSamples (w : Word) : Option Nat := frameSamplesEntry (layer w) (version w)

/-- R110. -/
def slotSize (w : Word) : Nat :=
  match layer w with
  | .layerI => 4
  | .layerII => 1
  | .layerIII => 1
  | .reserved => 1

/-- R111: one floor of the whole quotient, then the padding. -/
def frameSize (w : Word) : Option Nat :=
  match bitrate w, samplerate w, frameSamples w with
  | some br, some sr, some fs => some (fs / 8 * (br * 1000) / sr + if padding w then slotSize w else 0)
  | _, _, _ => none

/-- The bytes SCAN consumes for a header: "4 header bytes (plus 2 more if `crc_present`)" (42_frame_scanner R120). -/
def headerBytes (w : Word) : Nat := if crcPresent w then 6 else 4

/-- `nch` (43_layer1_decoder R130). -/
def channelsOf (w : Word) : Fin 3 := if channelMode w = 3 then 1 else 2

/-! ## The packed view registers (10_state R25) -/

/-- `HDRF`. -/
def hdrfWord (w : Word) : Word :=
  0#14 ++ BitVec.ofNat 3 (slotSize w) ++ emphasis w ++ BitVec.ofBool (original w) ++ BitVec.ofBool (copyright w)
    ++ channelModeExtension w ++ channelMode w ++ BitVec.ofBool (privateBit w) ++ BitVec.ofBool (padding w)
    ++ BitVec.ofBool (crcPresent w) ++ layerCode w ++ versionCode w

/-- `BITRATE`, `SRATE`, `FSAMP`, `FSIZE`: bit 31 valid and the value, or 0. -/
def optionalWord : Option Nat → Word
  | some v => 1#1 ++ BitVec.ofNat 31 v
  | none => 0

end Sys2Proof.Machine
end

