-- ==== Sys2Proof/Config.lean ====
section
/-! DEFINITION. What an implementation fixes and the spec leaves OPEN, and the free values: constants without a body. -/

namespace Sys2Proof

/-- `SF_TABLE` (43_layer1_decoder R139): "an OPEN parameter of the model", 64 finite binary64 values
(92_eei_decisions D26). Log entry 6. -/
opaque Config.sfTable : Fin 64 → FiniteF64

/-- `LINEAR_TABLE` (43_layer1_decoder R140): OPEN, 14 finite binary64 values (D26). Log entry 6. -/
opaque Config.linearTable : Fin 14 → FiniteF64

/-- A free value of `w` bits: what a state element that "holds no value" (10_state R32) is found to hold.
`draw` is the number of the draw (`State.draws`), `slot` tells the elements read in one draw apart.
Log entries 4, 5, 7, 8. -/
opaque Config.freeBits : (w draw slot : Nat) → BitVec w

end Sys2Proof
end

