-- ==== Sys2Proof/Machine/Ops.lean ====
section
/-! DEFINITION. The named operations over the source, the stream and the whole state: memory, the four source
primitives (spec 20_memory R42 to R45), how a command ends (60_exceptions R150 to R153) and reset (40_bitstream R80). -/

namespace Sys2Proof.Machine

/-- The three outcomes of a step, over this machine's types. -/
abbrev Result := Host.Outcome State Fault Refusal

/-! ## Memory: bytes by offset -/

/-- What an unlisted offset below `LEN` holds. Every `SRC` has exactly one canonical list (log entry 1). -/
def Memory.unlisted : Byte := 0

def Memory.read : List Host.Cell → Nat → Byte
  | [], _ => Memory.unlisted
  | (b, v) :: m, a => if a = b then v else Memory.read m a

/-- Put a byte at an offset, keeping the canonical form. Only the platform uses it, to attach a source: no command writes `SRC` (10_state R27). -/
def Memory.write : List Host.Cell → Nat → Byte → List Host.Cell
  | [], a, v => if v = Memory.unlisted then [] else [(a, v)]
  | (b, u) :: m, a, v =>
    if a < b then (if v = Memory.unlisted then (b, u) :: m else (a, v) :: (b, u) :: m)
    else if a = b then (if v = Memory.unlisted then m else (a, v) :: m)
    else (b, u) :: Memory.write m a v

/-- The canonical form: offsets strictly rising, no byte equal to `Memory.unlisted`. -/
def Memory.wf : List Host.Cell → Bool
  | [] => true
  | [(_, v)] => v != Memory.unlisted
  | (a, v) :: (b, u) :: m => v != Memory.unlisted && decide (a < b) && Memory.wf ((b, u) :: m)

/-- The bytes `bs` laid out from offset `a` on. -/
def Memory.ofBytes (a : Nat) : List Byte → List Host.Cell
  | [] => []
  | b :: bs => Memory.write (Memory.ofBytes (a + 1) bs) a b

/-! ## The source (20_memory) -/

/-- A source holding exactly the bytes `bs` (R40). -/
def Source.ofBytes (bs : List Byte) (startPos : Nat) : Source := ⟨Memory.ofBytes 0 bs, bs.length, startPos⟩

/-- The parameter ranges of 00_scope R4, the canonical form, and no byte listed at or above `LEN`. -/
def Source.wf (src : Source) : Bool :=
  Memory.wf src.mem && src.mem.all (fun c => decide (c.1 < src.len)) && decide (src.len < 2 ^ 60) && decide (src.startPos ≤ src.len)

/-- `SRC[a]` (R40). -/
def Source.byte (src : Source) (a : Nat) : Byte := Memory.read src.mem a

/-- `SrcAvail(k)` at cursor `pos` (R42). -/
def Source.avail (src : Source) (pos k : Nat) : Bool := decide (pos + k ≤ src.len)

/-- `SRC[pos], ..., SRC[pos+k-1]` in source order (R43). -/
def Source.bytes (src : Source) (pos : Nat) : Nat → List Byte
  | 0 => []
  | k + 1 => src.byte pos :: src.bytes (pos + 1) k

/-- `{acc, b[0], b[1], ...}`: bytes appended below `acc`, the first the most significant (20_memory R46). -/
def appendBytes (acc : Nat) (bs : List Byte) : Nat := bs.foldl (fun c b => c * 256 + b.toNat) acc

/-- `SrcRead(k)` (R43): the bytes, and the cursor past them. -/
def Source.read (src : Source) (pos k : Nat) : List Byte × Nat := (src.bytes pos k, pos + k)

/-- `SrcPeek4()` (R44): `BE32` of the four bytes at the cursor, which does not move. -/
def Source.peek4 (src : Source) (pos : Nat) : Word := BitVec.ofNat 32 (appendBytes 0 (src.bytes pos 4))

/-- `SrcSkip(k)` (R45): the cursor past `k` bytes. -/
def srcSkip (pos k : Nat) : Nat := pos + k

/-! ## Places in the result tables (10_state R25) -/

/-- Where `ALLOC[ch][sb]` and `SCF[ch][sb]` stand. -/
def entryIdx (ch : Fin 2) (sb : Fin 32) : Fin 64 := ⟨32 * ch.val + sb.val, by omega⟩

/-- Where `SAMPLE[ch][gr][sb]` stands. -/
def sampleIdx (ch : Fin 2) (gr : Fin 12) (sb : Fin 32) : Fin 768 := ⟨(12 * ch.val + gr.val) * 32 + sb.val, by omega⟩

/-- A table all of whose entries hold no value. -/
def noEntries {α : Type} {n : Nat} : Vector (Option α) n := Vector.replicate n none

/-! ## Invalidation of the tables (10_state R19, R26) -/

/-- `AV, SV, MV <- 0`, `NCH <- 0`, every entry holds no value (R19). -/
def State.invalidateTables (s : State) : State :=
  { s with av := false, sv := false, mv := false, nch := 0, alloc := noEntries, scf := noEntries, sample := noEntries }

/-- `SV <- 0 ; MV <- 0 ; SCF, SAMPLE <- no value` (43_layer1_decoder R132). -/
def State.invalidateScf (s : State) : State :=
  { s with sv := false, mv := false, scf := noEntries, sample := noEntries }

/-- `MV <- 0 ; SAMPLE <- no value` (43_layer1_decoder R133). -/
def State.invalidateSamples (s : State) : State :=
  { s with mv := false, sample := noEntries }

/-! ## How a command ends (60_exceptions) -/

/-- OK and the normal non-OK outcomes change no sticky flag (R150, R151). -/
def State.complete (s : State) (c : Code) : State := { s with code := c }

/-- A rejection: `CODE` and `ERR`, no other state (R152). -/
def State.reject (s : State) (c : Code) : State := { s with code := c, err := true }

/-- The stream state that "holds no value" (R153): free values (log entry 7). -/
def State.poisonedStream (s : State) : BitStream where
  cache    := Config.freeBits 7 s.draws 0
  cacheLen := Config.freeBits 3 s.draws 1
  pos      := (Config.freeBits 60 s.draws 2).toNat

/-- A fatal fault (R153): what takes the place of a trap entry (R158). `HDR`, `HV` and `WDATA` are kept. -/
def State.fatal (s : State) (c : Code) : State :=
  { s.invalidateTables with code := c, err := true, dead := true, rdata := none, stream := s.poisonedStream, draws := s.draws + 1 }

/-- End a command whose body raised `c` or reached `t`. -/
def State.settle (s : State) : Except Code State → State
  | .ok t => t.complete .ok
  | .error c => s.fatal c

/-- Reset (40_bitstream R80, 10_state R30, 70_reset R170): what takes the place of a trap return (60_exceptions R159).
The parameters and the model's own fields are not touched (70_reset R171). -/
def State.reopen (s : State) : State :=
  { s.invalidateTables with
    stream := ⟨0, 0, s.src.startPos⟩, scanState := .seeking, hdr := none, hv := false,
    rdata := none, wdata := none, code := .ok, err := false, dead := false }

/-- The platform's boot duties 1 and 2 (70_reset R172): attach a source, then reset. Not a step of the unit. -/
def State.attach (s : State) (src : Source) : State := ({ s with src := src }).reopen

end Sys2Proof.Machine
end

