-- ==== Sys2Proof/Machine/Flags.lean ====
section
/-! DEFINITION. The STATUS register (spec 10_state R22), the flags as views of it (R26), and the conditions the
commands' checks share (60_exceptions R155). -/

namespace Sys2Proof.Machine

/-- The number of an outcome code (60_exceptions R154). -/
def codeBits : Code → BitVec 4
  | .ok => 0
  | .endOfStream => 1
  | .scanEnd => 2
  | .invalidWidth => 3
  | .illegalCommand => 4
  | .cacheNotEmpty => 5
  | .sequenceError => 6
  | .linearIndexRange => 7
  | .streamDead => 8

/-- `SS` (R22). -/
def scanStateBit : ScanState → BitVec 1
  | .seeking => 0
  | .frameFound => 1

/-- `STATUS` (R22). -/
def State.status (s : State) : Word :=
  0#19 ++ scanStateBit s.scanState ++ BitVec.ofNat 2 s.nch.val ++ BitVec.ofBool s.mv ++ BitVec.ofBool s.sv
    ++ BitVec.ofBool s.av ++ BitVec.ofBool s.hv ++ BitVec.ofBool s.dead ++ BitVec.ofBool s.err ++ codeBits s.code

/-- A decoder command's inputs are there: RDALLOC and DECL1 (43_layer1_decoder R131, R136). -/
def State.readyForAlloc (s : State) : Bool := s.hv

/-- RDSCF (R132). -/
def State.readyForScf (s : State) : Bool := s.hv && s.av

/-- RDSMP (R133). -/
def State.readyForSamples (s : State) : Bool := s.hv && s.av && s.sv

/-- A byte-level command (PEEK, SCAN): STREAM_DEAD, then CACHE_NOT_EMPTY, then `run` (60_exceptions R155, 20_memory R48). -/
def State.checkByteLevel (s : State) (run : State) : State :=
  if s.dead then s.reject .streamDead
  else if s.stream.cacheLen ≠ 0 then s.reject .cacheNotEmpty
  else run

/-- A decoder command: STREAM_DEAD, then SEQUENCE_ERROR, then `run` (60_exceptions R155). -/
def State.checkDecoder (s : State) (ready : Bool) (run : State) : State :=
  if s.dead then s.reject .streamDead
  else if ready then run
  else s.reject .sequenceError

end Sys2Proof.Machine
end

