-- ==== Sys2Proof/Machine/Operands.lean ====
section
/-! DEFINITION. Where the commands take their operands from: `WDATA`, the operand byte of RDBITS, the latched header
and the result tables. An element that holds no value (spec 10_state R32) gives a free value. -/

namespace Sys2Proof.Machine

/-- The width operand of RDBITS is legal (30_encoding R62, 40_bitstream R83). -/
def widthLegal (n : BitVec 8) : Bool := (Instr.rdbits n).wellFormed

/-- The word PARSE reads (41_frame_header R100); of a `WDATA` never written, a free value (93 U14, log entry 5). -/
def State.wdataWord (s : State) : Word := s.wdata.getD (Config.freeBits 32 s.draws 0)

/-- The number of draws after `State.wdataWord`. -/
def State.drawsAfterWdata (s : State) : Nat := if s.wdata.isSome then s.draws else s.draws + 1

/-- The word in `HDR`; absent only against 10_state R31.5 (log entry 8). -/
def State.hdrWord (s : State) : Word := s.hdr.getD (Config.freeBits 32 s.draws 0)

/-- `nch` of the latched header (43_layer1_decoder R130). -/
def State.headerChannels (s : State) : Fin 3 := channelsOf s.hdrWord

/-- `ALLOC[ch][sb]`; absent below `NCH` only against 10_state R16 (log entry 8). -/
def State.allocCode (s : State) (ch : Fin 2) (sb : Fin 32) : BitVec 4 :=
  s.alloc[entryIdx ch sb].getD (Config.freeBits 4 s.draws (entryIdx ch sb))

/-- `SCF[ch][sb]`; absent below `NCH` only against 10_state R17 (log entry 8). -/
def State.scfCode (s : State) (ch : Fin 2) (sb : Fin 32) : BitVec 6 :=
  s.scf[entryIdx ch sb].getD (Config.freeBits 6 s.draws (entryIdx ch sb))

/-- Subband outer, channel inner, channels below `nch` (30_encoding R69): the order of both code sections. -/
def codeOrder (nch : Fin 3) : List (Fin 2 × Fin 32) :=
  (List.finRange 32).flatMap fun sb => ((List.finRange 2).filter fun ch => ch.val < nch.val).map fun ch => (ch, sb)

/-- Granule outer, then as `codeOrder` (30_encoding R69): the order of the sample section. -/
def sampleOrder (nch : Fin 3) : List (Fin 12 × Fin 2 × Fin 32) :=
  (List.finRange 12).flatMap fun gr => (codeOrder nch).map fun p => (gr, p)

end Sys2Proof.Machine
end

