-- ==== Sys2Proof/Machine/BitStream.lean ====
section
/-! DEFINITION. The BitStream: the internal bit read and the commands RESET, PEEK, RDBITS (spec 40_bitstream). -/

namespace Sys2Proof.Machine

/-- The bit cursor (10_state R12, 40_bitstream R86). -/
def bitCursor (st : BitStream) : Nat := 8 * st.pos - st.cacheLen.toNat

/-- Stream bit number `k` (00_scope R6). -/
def Source.streamBit (src : Source) (k : Nat) : Bool := (src.byte (k / 8)).getLsbD (7 - k % 8)

/-- `StreamBits(k, n)` (00_scope R6): most significant bit first. -/
def Source.streamBits (src : Source) (k : Nat) : Nat → Nat
  | 0 => 0
  | n + 1 => 2 * src.streamBits k n + (src.streamBit (k + n)).toNat

/-- The `n` bits from the top of `total` bits `bits`, and the stream that keeps the rest at cursor `pos`. -/
def takeBits (bits total n pos : Nat) : Nat × BitStream :=
  let rem := total - n
  (bits / 2 ^ rem, ⟨BitVec.ofNat 7 (bits % 2 ^ rem), BitVec.ofNat 3 rem, pos⟩)

/-- `ReadBits(n)`, `1 <= n <= 32` (R84): the value and the stream after it, or `none` where it raises END_OF_STREAM (R88). -/
def readBits (src : Source) (n : Nat) (st : BitStream) : Option (Nat × BitStream) :=
  let held := st.cacheLen.toNat
  if n ≤ held then some (takeBits st.cache.toNat held n st.pos)
  else
    let nbytes := (n - held + 7) / 8
    if src.avail st.pos nbytes then
      let got := src.read st.pos nbytes
      some (takeBits (appendBytes st.cache.toNat got.1) (held + 8 * nbytes) n got.2)
    else none

/-- A field of `n` bits, of which there may be none (30_encoding R69): "no bits are consumed" for width 0. -/
def readField (src : Source) (n : Nat) (st : BitStream) : Option (Nat × BitStream) :=
  if n = 0 then some (0, st) else readBits src n st

/-- RESET (R80). -/
def execReset (s : State) : Result := .next s.reopen

/-- PEEK after its checks (R81). -/
def State.peeked (s : State) : State :=
  if s.src.avail s.stream.pos 4 then ({ s with rdata := some (s.src.peek4 s.stream.pos) }).complete .ok
  else s.complete .endOfStream

/-- PEEK (R81). -/
def execPeek (s : State) : Result := .next (s.checkByteLevel s.peeked)

/-- RDBITS after its checks (R83). -/
def State.bitsRead (s : State) (n : Nat) : State :=
  match readBits s.src n s.stream with
  | some (r, st) => ({ s with rdata := some (BitVec.ofNat 32 r), stream := st }).complete .ok
  | none => s.fatal .endOfStream

/-- RDBITS n (R83): INVALID_WIDTH is decided before STREAM_DEAD (60_exceptions R155). -/
def execRdbits (n : BitVec 8) (s : State) : Result :=
  .next (if !widthLegal n then s.reject .invalidWidth
    else if s.dead then s.reject .streamDead
    else s.bitsRead n.toNat)

end Sys2Proof.Machine
end

