-- ==== Sys2Proof/Machine/Float64.lean ====
section
/-! DEFINITION. Binary64 arithmetic, each operation computed exactly and rounded once to nearest, ties to even
(spec 43_layer1_decoder R138). -/

namespace Sys2Proof.Machine

/-- Zero of either sign. -/
def zeroF64 (neg : Bool) : FiniteF64 := ⟨neg, 0, 0⟩

/-- A finite number is `(-1)^neg * significand * 2^exponent`. -/
def significand (x : FiniteF64) : Nat := if x.expo.val = 0 then x.frac.toNat else 2 ^ 52 + x.frac.toNat

/-- The exponent of the significand's last bit. -/
def exponent (x : FiniteF64) : Int := if x.expo.val = 0 then -1074 else (x.expo.val : Int) - 1075

/-- The real number a finite binary64 stands for; a claim's term, no operation uses it. -/
def valueF64 (x : FiniteF64) : ℚ := (if x.neg then -1 else 1) * (significand x : ℚ) * (2 : ℚ) ^ exponent x

/-- The number whose significand is `q` (at most `2^53`) with last bit `2^u` (`u` at least -1074), overflow to infinity. -/
def packF64 (neg : Bool) (q : Nat) (u : Int) : F64 :=
  let carry := q = 2 ^ 53
  let q' := if carry then 2 ^ 52 else q
  let e := if carry then u + 1076 else u + 1075
  if q' < 2 ^ 52 then .finite ⟨neg, 0, BitVec.ofNat 52 q'⟩
  else if h : e.toNat < 2047 then .finite ⟨neg, ⟨e.toNat, h⟩, BitVec.ofNat 52 (q' - 2 ^ 52)⟩
  else .inf neg

/-- `num / den` to the nearest natural number, ties to even. -/
def roundHalfEven (num den : Nat) : Nat :=
  let q := num / den
  let r := num % den
  if den < 2 * r ∨ (2 * r = den ∧ q % 2 = 1) then q + 1 else q

/-- `floor(log2 (n / d))`, for `n` and `d` above 0. -/
def floorLog2 (n d : Nat) : Int :=
  let k : Int := (Nat.log2 n : Int) - (Nat.log2 d : Int)
  if d * 2 ^ k.toNat ≤ n * 2 ^ (-k).toNat then k else k - 1

/-- The binary64 number nearest to `(-1)^neg * (n / d) * 2^e`; `neg` is the sign of a zero result too. -/
def roundF64 (neg : Bool) (n d : Nat) (e : Int) : F64 :=
  if n = 0 then .finite (zeroF64 neg)
  else
    let u := max (floorLog2 n d + e - 52) (-1074)
    packF64 neg (roundHalfEven (n * 2 ^ (e - u).toNat) (d * 2 ^ (u - e).toNat)) u

/-- `f64(i)` (00_scope R7). -/
def f64OfNat (i : Nat) : F64 := roundF64 false i 1 0

/-- The constant 0.5. -/
def f64Half : F64 := .finite ⟨false, 1022, 0⟩

/-- `+0.0`. -/
def f64Zero : F64 := .finite (zeroF64 false)

/-- The significand with its sign. -/
def signedSignificand (x : FiniteF64) : Int := if x.neg then -(significand x : Int) else significand x

/-- Exact sum, rounded once; an exact zero is `+0.0` unless both operands are negative zeros. -/
def addFinite (x y : FiniteF64) : F64 :=
  let u := min (exponent x) (exponent y)
  let sum := signedSignificand x * 2 ^ (exponent x - u).toNat + signedSignificand y * 2 ^ (exponent y - u).toNat
  if sum = 0 then .finite (zeroF64 (x.neg && y.neg)) else roundF64 (decide (sum < 0)) sum.natAbs 1 u

/-- The operand with its sign turned. -/
def negF64 : F64 → F64
  | .finite x => .finite { x with neg := !x.neg }
  | .inf n => .inf (!n)
  | .nan => .nan

/-- Sum. -/
def addF64 : F64 → F64 → F64
  | .finite x, .finite y => addFinite x y
  | .inf n, .finite _ => .inf n
  | .finite _, .inf n => .inf n
  | .inf n, .inf m => if n = m then .inf n else .nan
  | .nan, _ => .nan
  | _, .nan => .nan

/-- `a -. b`. -/
def subF64 (a b : F64) : F64 := addF64 a (negF64 b)

/-- `a *. b`. -/
def mulF64 : F64 → F64 → F64
  | .finite x, .finite y => roundF64 (x.neg != y.neg) (significand x * significand y) 1 (exponent x + exponent y)
  | .inf n, .finite y => if significand y = 0 then .nan else .inf (n != y.neg)
  | .finite x, .inf m => if significand x = 0 then .nan else .inf (x.neg != m)
  | .inf n, .inf m => .inf (n != m)
  | .nan, _ => .nan
  | _, .nan => .nan

/-- `a /. b`. -/
def divF64 : F64 → F64 → F64
  | .finite x, .finite y =>
    if significand y = 0 then (if significand x = 0 then .nan else .inf (x.neg != y.neg))
    else roundF64 (x.neg != y.neg) (significand x) (significand y) (exponent x - exponent y)
  | .inf n, .finite y => .inf (n != y.neg)
  | .finite x, .inf m => .finite (zeroF64 (x.neg != m))
  | .inf _, .inf _ => .nan
  | .nan, _ => .nan
  | _, .nan => .nan

/-- The 64 bits of a number; a NaN has no one pattern (log entry 9). -/
def f64Bits : F64 → Option (BitVec 64)
  | .finite x => some (BitVec.ofBool x.neg ++ BitVec.ofNat 11 x.expo.val ++ x.frac)
  | .inf n => some (BitVec.ofBool n ++ 0x7FF#11 ++ 0#52)
  | .nan => none

end Sys2Proof.Machine
end

