-- ==== Sys2Proof/Machine/Layer1.lean ====
section
/-! DEFINITION. The Layer1Decoder: RDALLOC, RDSCF, RDSMP, DECL1 (spec 43_layer1_decoder). -/

namespace Sys2Proof.Machine

/-! ## Dequantisation (R134) -/

/-- `v = (f64(s) /. f64(2^nb)) -. 0.5`. -/
def normalized (nb s : Nat) : F64 := subF64 (divF64 (f64OfNat s) (f64OfNat (2 ^ nb))) f64Half

/-- `LINEAR_TABLE[nb - 1]`, if the 14-entry table has that entry (R135, R140). -/
def linearEntry (linear : Fin 14 → FiniteF64) (nb : Nat) : Option FiniteF64 :=
  if h : nb - 1 < 14 then some (linear ⟨nb - 1, h⟩) else none

/-- `(v *. factor) *. scale`, in this order. -/
def scaled (nb s : Nat) (factor scale : FiniteF64) : F64 :=
  mulF64 (mulF64 (normalized nb s) (.finite factor)) (.finite scale)

/-- The sample of a field of width `nb` with value `s` under the two tables (R133, R134): `+0.0` for width 0,
LINEAR_INDEX_RANGE where the linear-scaling table has no entry (R135). -/
def sampleOf (linear : Fin 14 → FiniteF64) (sf : Fin 64 → FiniteF64) (nb : BitVec 4) (scf : BitVec 6) (s : Nat) : Except Code F64 :=
  if nb = 0 then .ok f64Zero
  else match linearEntry linear nb.toNat with
    | some factor => .ok (scaled nb.toNat s factor (sf scf.toFin))
    | none => .error .linearIndexRange

/-! ## The shared loop -/

/-- For each place in order: read a field of the place's width, and put what `entry` makes of it there.
The first failure ends the loop: END_OF_STREAM of the read before what `entry` raises (60_exceptions R155.7). -/
def readEach {ι α : Type} {k : Nat} (src : Source) (width : ι → Nat) (place : ι → Fin k) (entry : ι → Nat → Except Code α) :
    List ι → BitStream → Vector (Option α) k → Except Code (BitStream × Vector (Option α) k)
  | [], st, t => .ok (st, t)
  | i :: is, st, t =>
    match readField src (width i) st with
    | none => .error .endOfStream
    | some (v, st') =>
      match entry i v with
      | .error c => .error c
      | .ok a => readEach src width place entry is st' (t.set (place i) (some a))

/-! ## The three bodies -/

/-- RDALLOC after its checks (R131). -/
def State.allocBody (s : State) : Except Code State :=
  match readEach s.src (fun _ => 4) (fun p => entryIdx p.1 p.2) (fun _ v => .ok (BitVec.ofNat 4 v))
      (codeOrder s.headerChannels) s.stream noEntries with
  | .ok (st, t) => .ok { s.invalidateTables with nch := s.headerChannels, alloc := t, av := true, stream := st }
  | .error c => .error c

/-- The width of a scale-factor field (R132). -/
def State.scfWidth (s : State) (p : Fin 2 × Fin 32) : Nat := if s.allocCode p.1 p.2 = 0 then 0 else 6

/-- RDSCF after its checks (R132); a field of no bits stores 0. -/
def State.scfBody (s : State) : Except Code State :=
  match readEach s.src s.scfWidth (fun p => entryIdx p.1 p.2) (fun _ v => .ok (BitVec.ofNat 6 v))
      (codeOrder s.nch) s.stream noEntries with
  | .ok (st, t) => .ok { s.invalidateScf with scf := t, sv := true, stream := st }
  | .error c => .error c

/-- The width of a sample field (R133). -/
def State.sampleWidth (s : State) (p : Fin 12 × Fin 2 × Fin 32) : Nat := (s.allocCode p.2.1 p.2.2).toNat

/-- The sample of a field read as `v` (R133). -/
def State.sampleEntry (s : State) (p : Fin 12 × Fin 2 × Fin 32) (v : Nat) : Except Code F64 :=
  sampleOf Config.linearTable Config.sfTable (s.allocCode p.2.1 p.2.2) (s.scfCode p.2.1 p.2.2) v

/-- RDSMP after its checks (R133). -/
def State.samplesBody (s : State) : Except Code State :=
  match readEach s.src s.sampleWidth (fun p => sampleIdx p.2.1 p.1 p.2.2) s.sampleEntry
      (sampleOrder s.nch) s.stream noEntries with
  | .ok (st, t) => .ok { s.invalidateSamples with sample := t, mv := true, stream := st }
  | .error c => .error c

/-- The three bodies in order, stopped at the first failure (R136). -/
def State.decodeBody (s : State) : Except Code State :=
  match s.allocBody with
  | .error c => .error c
  | .ok t =>
    match t.scfBody with
    | .error c => .error c
    | .ok u => u.samplesBody

/-! ## The commands -/

/-- RDALLOC (R131). -/
def execRdalloc (s : State) : Result := .next (s.checkDecoder s.readyForAlloc (s.settle s.allocBody))

/-- RDSCF (R132). -/
def execRdscf (s : State) : Result := .next (s.checkDecoder s.readyForScf (s.settle s.scfBody))

/-- RDSMP (R133). -/
def execRdsmp (s : State) : Result := .next (s.checkDecoder s.readyForSamples (s.settle s.samplesBody))

/-- DECL1 (R136). -/
def execDecl1 (s : State) : Result := .next (s.checkDecoder s.readyForAlloc (s.settle s.decodeBody))

end Sys2Proof.Machine
end

