-- ==== Sys2Proof/Machine/Parser.lean ====
section
/-! DEFINITION. The command PARSE (spec 41_frame_header R100). -/

namespace Sys2Proof.Machine

/-- Latch `w` if it is a header; otherwise there is none (R100, 42_frame_scanner R120). -/
def State.latch (s : State) (w : Word) : State :=
  if isHeader w then { s with hdr := some w, hv := true } else { s with hdr := none, hv := false }

/-- PARSE (R100): it executes whether or not `DEAD` = 1, and ends OK. -/
def execParse (s : State) : Result :=
  .next (({ (s.invalidateTables.latch s.wdataWord) with draws := s.drawsAfterWdata }).complete .ok)

end Sys2Proof.Machine
end

