-- ==== Sys2Proof/Machine/Scanner.lean ====
section
/-! DEFINITION. The FrameScanner: its micro-steps and the command SCAN (spec 42_frame_scanner). -/

namespace Sys2Proof.Machine

/-- How a SCAN ends, with the cursor it leaves (R120): a header yielded, or SCAN_END. -/
inductive ScanEnd where
  | header (w : Word) (pos : Nat)
  | exhausted (pos : Nat)
  deriving DecidableEq, Repr

/-- One micro-step (R121): the machine goes on in a state, or the command ends. -/
inductive ScanMove where
  | goOn (st : ScanState) (pos : Nat)
  | stop (e : ScanEnd)
  deriving DecidableEq, Repr

/-- The transition table of R121. -/
def scanMicro (src : Source) : ScanState → Nat → ScanMove
  | .seeking, pos =>
    if src.avail pos 4 && isHeader (src.peek4 pos) then .goOn .frameFound pos
    else if src.avail pos 1 then .goOn .seeking (srcSkip pos 1)
    else .stop (.exhausted pos)
  | .frameFound, pos =>
    let w := src.peek4 pos
    if src.avail pos (headerBytes w) then .stop (.header w (srcSkip pos (headerBytes w)))
    else .stop (.exhausted src.len)

/-- At most `fuel` micro-steps. -/
def scanRun (src : Source) : Nat → ScanState → Nat → ScanEnd
  | 0, _, pos => .exhausted pos
  | fuel + 1, st, pos =>
    match scanMicro src st pos with
    | .goOn st' pos' => scanRun src fuel st' pos'
    | .stop e => e

/-- The micro-steps from SEEKING at `pos` to the end: at most `LEN - pos` skips and two more steps (R122). -/
def scanFrom (src : Source) (pos : Nat) : ScanEnd := scanRun src (src.len - pos + 2) .seeking pos

/-- SCAN after its checks (R120); `scan_state` is back to SEEKING at its end (10_state R13). -/
def State.scanned (s : State) : State :=
  match scanFrom s.src s.stream.pos with
  | .header w pos =>
    ({ s.invalidateTables with
        stream := { s.stream with pos := pos }, hdr := some w, hv := true, scanState := .seeking }).complete .ok
  | .exhausted pos =>
    ({ s.invalidateTables with
        stream := { s.stream with pos := pos }, hdr := none, hv := false, scanState := .seeking }).complete .scanEnd

/-- SCAN (R120). -/
def execScan (s : State) : Result := .next (s.checkByteLevel s.scanned)

end Sys2Proof.Machine
end

