-- ==== Sys2Proof/Machine/Dispatch.lean ====
section
/-! DEFINITION. The meaning of each command: one arm per row of the opcode table. -/

namespace Sys2Proof.Machine

def exec (i : Instr) (s : State) : Host.Outcome State Fault Refusal :=
  match i with
  | .reset => Sys2Proof.Machine.execReset s
  | .peek => Sys2Proof.Machine.execPeek s
  | .rdbits n => Sys2Proof.Machine.execRdbits n s
  | .parse => Sys2Proof.Machine.execParse s
  | .scan => Sys2Proof.Machine.execScan s
  | .rdalloc => Sys2Proof.Machine.execRdalloc s
  | .rdscf => Sys2Proof.Machine.execRdscf s
  | .rdsmp => Sys2Proof.Machine.execRdsmp s
  | .decl1 => Sys2Proof.Machine.execDecl1 s

end Sys2Proof.Machine
end

