-- ==== Sys2Proof/Machine/Window.lean ====
section
/-! DEFINITION. The host window: what a read of each register returns (spec 10_state R25). `none` is "no value". -/

namespace Sys2Proof.Machine

/-- `CMD`. -/
def cmdAddr : Nat := 0x000

/-- `WDATA`. -/
def wdataAddr : Nat := 0x004

/-- `HDR` while `HV` = 1 (R14, R25). -/
def State.header (s : State) : Option Word := if s.hv then s.hdr else none

/-- A view of the stream state, which has no value while `DEAD` = 1 (R22, R25). -/
def State.ofStream (s : State) (view : BitStream → Word) : Option Word := if s.dead then none else some (view s.stream)

/-- The registers at 0x000 to 0x030. -/
def State.readRegister (s : State) (addr : Nat) : Option Word :=
  match addr with
  | 0x004 => s.wdata
  | 0x008 => if s.dead then none else s.rdata
  | 0x00C => some s.status
  | 0x010 => s.header
  | 0x014 => s.header.map hdrfWord
  | 0x018 => s.header.map fun w => optionalWord (bitrate w)
  | 0x01C => s.header.map fun w => optionalWord (samplerate w)
  | 0x020 => s.header.map fun w => optionalWord (frameSamples w)
  | 0x024 => s.header.map fun w => optionalWord (frameSize w)
  | 0x028 => s.ofStream fun st => BitVec.ofNat 32 st.pos
  | 0x02C => s.ofStream fun st => BitVec.setWidth 32 (BitVec.ofNat 28 (st.pos / 2 ^ 32))
  | 0x030 => s.ofStream fun st => BitVec.setWidth 32 st.cacheLen
  | _ => none

/-- Word `i` of the ALLOC window, while `AV` = 1 (R16, U11). -/
def State.readAlloc (s : State) (i : Fin 64) : Option Word := if s.av then s.alloc[i].map (BitVec.setWidth 32) else none

/-- Word `i` of the SCF window, while `SV` = 1 (R17, U11). -/
def State.readScf (s : State) (i : Fin 64) : Option Word := if s.sv then s.scf[i].map (BitVec.setWidth 32) else none

/-- One half of entry `i` of the SAMPLE window, while `MV` = 1 (R18, U11): bits 31:0, or bits 63:32. -/
def State.readSample (s : State) (i : Fin 768) (high : Bool) : Option Word :=
  if s.mv then (s.sample[i].bind f64Bits).map (BitVec.extractLsb' (if high then 32 else 0) 32) else none

/-- A host read. Every register is a word at an address divisible by 4; unlisted addresses return no value. -/
def State.readWindow (s : State) (addr : Nat) : Option Word :=
  if addr % 4 ≠ 0 then none
  else if addr < 0x100 then s.readRegister addr
  else if h : addr < 0x200 then s.readAlloc ⟨(addr - 0x100) / 4, by omega⟩
  else if h : addr < 0x300 then s.readScf ⟨(addr - 0x200) / 4, by omega⟩
  else if addr < 0x1000 then none
  else if h : addr < 0x2800 then s.readSample ⟨(addr - 0x1000) / 8, by omega⟩ (addr % 8 == 4)
  else none

end Sys2Proof.Machine
end

