-- ==== Sys2Proof/Machine/HostPort.lean ====
section
/-! DEFINITION. One host action (spec 10_state R23, R25, 30_encoding R63, 70_reset R170). -/

namespace Sys2Proof.Machine

/-- `CMD` takes bits 15:0 of the word written and ignores bits 31:16 (R25). -/
def commandOf (data : Word) : CmdWord := data.extractLsb' 0 16

/-- A command word issued: a word that decodes to no command is rejected ILLEGAL_COMMAND (30_encoding R63). -/
def issue (w : CmdWord) (s : State) : Result :=
  match decode w with
  | .ok i => exec i s
  | .error _ => .next (s.reject .illegalCommand)

/-- A host write (R25): `CMD` issues a command, `WDATA` takes the word, every other address has no effect. -/
def hostWrite (addr : Nat) (data : Word) (s : State) : Result :=
  if addr = cmdAddr then issue (commandOf data) s
  else if addr = wdataAddr then .next { s with wdata := some data }
  else .next s

/-- A host read (R25): no side effect on the unit; what it returned is kept in `lastRead`. -/
def hostRead (addr : Nat) (s : State) : Result := .next { s with lastRead := s.readWindow addr }

/-- Perform one action. -/
def perform (a : HostAction) (s : State) : Result :=
  match a with
  | .write addr data => hostWrite addr data s
  | .read addr => hostRead addr s
  | .resetInput => .next s.reopen

/-- Take the next action off the host's list and perform it; without one the unit is idle and loses nothing
(60_exceptions R162, 00_scope R2). -/
def nextAction (s : State) : Result :=
  match s.host with
  | [] => .next s
  | a :: rest => perform a { s with host := rest }

/-- The host's next action writes the command word `w` to `CMD`. -/
def State.queueCommand (s : State) (w : CmdWord) : State :=
  { s with host := .write cmdAddr (BitVec.setWidth 32 w) :: s.host }

end Sys2Proof.Machine
end

