-- ==== Sys2Proof/Machine/Step.lean ====
section
/-! DEFINITION. One step of the machine: the host's next action, performed to completion (spec 00_scope R2). -/

namespace Sys2Proof.Machine

def step (s : State) : Host.Outcome State Fault Refusal := nextAction s

/-- The command word `w` of `nbits` bits as the host's next action (log entry 2). -/
def State.withFetchWord (s : State) (nbits w : Nat) : State := s.queueCommand (BitVec.ofNat 16 (w % 2 ^ nbits))

end Sys2Proof.Machine
end

