-- ==== Sys2Proof/Safety.lean ====
section
/-! DEFINITION. What claims speak of: a run gone wrong (spec 70_reset R173), the invariants between commands (10_state
R31 with R16 to R19 and R153), what a fatal fault leaves (60_exceptions R153), and the counts of a payload (30_encoding R70). -/

namespace Sys2Proof.Machine

/-- "A run has gone wrong if `ERR = 1` at its end" (R173). -/
def State.goneWrong (s : State) : Bool := s.err

/-- R31.1 to R31.3: the cached bits are the low-order bits of the last byte pulled. -/
abbrev StreamOk (src : Source) (st : BitStream) : Prop :=
  st.cache.toNat < 2 ^ st.cacheLen.toNat ∧ st.pos ≤ src.len ∧
    (0 < st.cacheLen.toNat → 1 ≤ st.pos ∧ st.cache.toNat = (src.byte (st.pos - 1)).toNat % 2 ^ st.cacheLen.toNat)

/-- The invariants that hold between commands. -/
structure Inv (s : State) : Prop where
  /-- 00_scope R4. -/
  source_wf : s.src.wf = true
  /-- R31.1 to R31.3, "whenever `DEAD = 0`". -/
  stream_ok : s.dead = false → StreamOk s.src s.stream
  /-- R31.4. -/
  seeking : s.scanState = .seeking
  /-- R14. -/
  header_held : s.hdr.isSome = s.hv
  /-- R31.5. -/
  header_sync : ∀ w, s.hdr = some w → w.extractLsb' 21 11 = 0x7FF#11
  /-- R31.6. -/
  samples_after_scf : s.mv = true → s.sv = true
  /-- R31.6. -/
  scf_after_alloc : s.sv = true → s.av = true
  /-- R31.6. -/
  alloc_after_header : s.av = true → s.hv = true
  /-- R31.6: `NCH = 1` exactly when `HDR[7:6] = 3`, else 2. -/
  channels : s.av = true → ∀ w, s.hdr = some w → s.nch = if w.extractLsb' 6 2 = 3#2 then 1 else 2
  /-- R19. -/
  channels_none : s.av = false → s.nch = 0
  /-- R16. -/
  alloc_held : ∀ ch sb, (s.alloc[entryIdx ch sb]).isSome = (s.av && decide (ch.val < s.nch.val))
  /-- R17. -/
  scf_held : ∀ ch sb, (s.scf[entryIdx ch sb]).isSome = (s.sv && decide (ch.val < s.nch.val))
  /-- R18. -/
  sample_held : ∀ ch gr sb, (s.sample[sampleIdx ch gr sb]).isSome = (s.mv && decide (ch.val < s.nch.val))
  /-- R17: "an entry whose allocation code is 0 then holds 0". -/
  muted_scf : ∀ ch sb, s.alloc[entryIdx ch sb] = some 0 → (s.scf[entryIdx ch sb]).getD 0 = 0
  /-- R133: the sample of a muted subband is `+0.0`. -/
  muted_sample : ∀ ch gr sb, s.alloc[entryIdx ch sb] = some 0 → (s.sample[sampleIdx ch gr sb]).getD f64Zero = f64Zero
  /-- R31.7. -/
  dead_is_error : s.dead = true → s.err = true ∧ s.av = false ∧ s.sv = false ∧ s.mv = false
  /-- R153. -/
  dead_no_result : s.dead = true → s.rdata = none

/-- The table of 10_state R30, whatever the source attached. -/
structure ResetShape (t : State) : Prop where
  cache_empty : t.stream.cacheLen = 0 ∧ t.stream.cache = 0
  cursor : t.stream.pos = t.src.startPos
  seeking : t.scanState = .seeking
  no_header : t.hv = false ∧ t.hdr = none
  no_tables : t.av = false ∧ t.sv = false ∧ t.mv = false ∧ t.nch = 0
  no_alloc : ∀ i : Fin 64, t.alloc[i] = none
  no_scf : ∀ i : Fin 64, t.scf[i] = none
  no_sample : ∀ i : Fin 768, t.sample[i] = none
  port_empty : t.rdata = none ∧ t.wdata = none
  status : t.code = .ok ∧ t.err = false ∧ t.dead = false

/-- What a fatal fault with code `c` leaves of `s` (R153): the status, no tables, no `RDATA`; everything else the
fault does not poison is kept. The stream state and the model's `draws` are left unsaid. -/
structure FatalOf (c : Code) (s t : State) : Prop where
  code : t.code = c
  err : t.err = true
  dead : t.dead = true
  valid_bits : t.av = false ∧ t.sv = false ∧ t.mv = false ∧ t.nch = 0
  no_alloc : ∀ i : Fin 64, t.alloc[i] = none
  no_scf : ∀ i : Fin 64, t.scf[i] = none
  no_sample : ∀ i : Fin 768, t.sample[i] = none
  no_rdata : t.rdata = none
  header_kept : t.hdr = s.hdr ∧ t.hv = s.hv
  wdata_kept : t.wdata = s.wdata
  rest_kept : t.src = s.src ∧ t.scanState = s.scanState ∧ t.host = s.host ∧ t.lastRead = s.lastRead

/-- `K`: the number of nonzero allocation codes below `NCH` (R69). -/
def State.nonzeroCodes (s : State) : Nat := (codeOrder s.nch).countP fun p => s.allocCode p.1 p.2 ≠ 0

/-- `S`: the sum of the allocation codes below `NCH` (R69). -/
def State.sumOfCodes (s : State) : Nat := ((codeOrder s.nch).map fun p => (s.allocCode p.1 p.2).toNat).sum

/-- Run `i` after an outcome if that outcome is OK: the host sequence "stopped at the first outcome that is not OK" (R136). -/
def thenRun (r : Result) (i : Instr) : Result :=
  match r with
  | .next t => if t.code = .ok then exec i t else .next t
  | .fault f => .fault f
  | .refused f => .refused f

end Sys2Proof.Machine
end

