-- ==== Sys2Proof/Certificates/Slice0/Obligations.lean ====
section
/-! DEFINITION. The statements for the provers, grouped as the rules of the spec: encoding, reset and host port,
BitStream, header, scanner, decoder, arithmetic, outcomes, whole machine. -/

open Sys2Proof Sys2Proof.Machine

/-! ## Encoding -/

/-- 30_encoding R60, R61: no bit of a command word is dropped, in either direction. -/
def Obligations.DecodeEncodeAgree : Prop :=
  (∀ i : Instr, decode (encode i) = .ok i) ∧ ∀ (w : CmdWord) (i : Instr), decode w = .ok i → encode i = w

/-- 30_encoding R61, R62, R63: one word of each row, written out, and three words that are no command. -/
def Obligations.OpcodeMapWords : Prop :=
  decode 0x0000#16 = .ok .reset ∧ decode 0x0100#16 = .ok .peek ∧ decode 0x0220#16 = .ok (.rdbits 32) ∧
  decode 0x02FF#16 = .ok (.rdbits 255) ∧ decode 0x0300#16 = .ok .parse ∧ decode 0x0400#16 = .ok .scan ∧
  decode 0x0500#16 = .ok .rdalloc ∧ decode 0x0600#16 = .ok .rdscf ∧ decode 0x0700#16 = .ok .rdsmp ∧
  decode 0x0800#16 = .ok .decl1 ∧ decode 0x0101#16 = .error .operandNotZero ∧
  decode 0x0900#16 = .error .reservedOpcode ∧ decode 0xFFFF#16 = .error .reservedOpcode

/-- 30_encoding R63: exactly these words are illegal, and writing one to `CMD` changes `CODE` and `ERR` only. -/
def Obligations.IllegalWordsRejected : Prop :=
  ∀ w : CmdWord,
    ((∃ e, decode w = .error e) ↔
      9 ≤ (w.extractLsb' 8 8).toNat ∨ (w.extractLsb' 8 8 ≠ 2#8 ∧ w.extractLsb' 0 8 ≠ 0#8)) ∧
    ∀ (s : State) (data : Word) (rest : List HostAction), s.host = .write 0 data :: rest → data.extractLsb' 0 16 = w →
      (∃ e, decode w = .error e) → step s = .next { s with host := rest, code := .illegalCommand, err := true }

/-! ## Step, reset and the host port -/

/-- 10_state R23, R25, 00_scope R2: a command word written to `CMD` that decodes to `i` runs `i` on the state with that
action taken off the host's list, whatever bits 31:16 are; nothing else is around it. -/
def Obligations.StepRunsDecodedCommand : Prop :=
  ∀ (s : State) (data : Word) (rest : List HostAction) (i : Instr),
    s.host = .write 0 data :: rest → decode (data.extractLsb' 0 16) = .ok i → step s = exec i { s with host := rest }

/-- 60_exceptions R162: the unit without an action of the host is idle and loses nothing. -/
def Obligations.IdleUnitUnchanged : Prop := ∀ s : State, s.host = [] → step s = .next s

/-- 10_state R30: power-on, the RESET command from any state, and the reset input from any state produce the reset
state, and (70_reset R171) leave the source as it is. -/
def Obligations.EveryResetGivesResetState : Prop :=
  ResetShape State.reset ∧
  (∀ s : State, ∃ t, exec .reset s = .next t ∧ ResetShape t ∧ t.src = s.src) ∧
  ∀ (s : State) (rest : List HostAction), s.host = .resetInput :: rest →
    ∃ t, step s = .next t ∧ ResetShape t ∧ t.src = s.src

/-- 40_bitstream R80: RESET is always OK; the whole next state. The model's own `host`, `lastRead` and `draws` are kept. -/
def Obligations.ResetCommandState : Prop :=
  ∀ s : State, exec .reset s =
    .next { State.reset with
      src := s.src, stream := ⟨0, 0, s.src.startPos⟩, host := s.host, lastRead := s.lastRead, draws := s.draws }

/-- 10_state R21, R25: a host read changes nothing of the unit; a write to `WDATA` sets `WDATA` alone; a write to a read-only
address has no effect. The model's choices: that a write to an unlisted address or one not divisible by 4 has no effect
either (log entry 12), and that what a read returned stands in `lastRead` (log entry 3). -/
def Obligations.HostAccessEffects : Prop :=
  (∀ (s : State) (a : Nat) (rest : List HostAction), s.host = .read a :: rest →
    step s = .next { s with host := rest, lastRead := s.readWindow a }) ∧
  (∀ (s : State) (data : Word) (rest : List HostAction), s.host = .write 4 data :: rest →
    step s = .next { s with host := rest, wdata := some data }) ∧
  ∀ (s : State) (a : Nat) (data : Word) (rest : List HostAction), s.host = .write a data :: rest → a ≠ 0 → a ≠ 4 →
    step s = .next { s with host := rest }

/-- 10_state R22 and 60_exceptions R154: the fields of `STATUS` and the numbers of the outcome codes. -/
def Obligations.StatusFields : Prop :=
  (∀ s : State,
    s.status.extractLsb' 0 4 = codeBits s.code ∧ s.status.getLsbD 4 = s.err ∧ s.status.getLsbD 5 = s.dead ∧
    s.status.getLsbD 6 = s.hv ∧ s.status.getLsbD 7 = s.av ∧ s.status.getLsbD 8 = s.sv ∧ s.status.getLsbD 9 = s.mv ∧
    (s.status.extractLsb' 10 2).toNat = s.nch.val ∧ s.status.getLsbD 12 = decide (s.scanState = .frameFound) ∧
    s.status.extractLsb' 13 19 = 0#19) ∧
  codeBits .ok = 0#4 ∧ codeBits .endOfStream = 1#4 ∧ codeBits .scanEnd = 2#4 ∧ codeBits .invalidWidth = 3#4 ∧
  codeBits .illegalCommand = 4#4 ∧ codeBits .cacheNotEmpty = 5#4 ∧ codeBits .sequenceError = 6#4 ∧
  codeBits .linearIndexRange = 7#4 ∧ codeBits .streamDead = 8#4

/-- 10_state R25: what the host reads at the addresses of the stream and port registers, and in the table windows
while their valid bits are set; `CMD` returns no value. -/
def Obligations.WindowReadsShowState : Prop :=
  ∀ s : State,
    s.readWindow 0x000 = none ∧ s.readWindow 0x004 = s.wdata ∧ s.readWindow 0x00C = some s.status ∧
    (s.dead = false → s.readWindow 0x008 = s.rdata ∧
      s.readWindow 0x028 = some (BitVec.ofNat 32 s.stream.pos) ∧
      s.readWindow 0x02C = some (BitVec.setWidth 32 (BitVec.ofNat 28 (s.stream.pos / 2 ^ 32))) ∧
      s.readWindow 0x030 = some (BitVec.setWidth 32 s.stream.cacheLen)) ∧
    (s.hv = true → s.readWindow 0x010 = s.hdr) ∧
    (s.av = true → ∀ ch sb, s.readWindow (0x100 + 4 * (32 * ch.val + sb.val)) = (s.alloc[entryIdx ch sb]).map (BitVec.setWidth 32)) ∧
    (s.sv = true → ∀ ch sb, s.readWindow (0x200 + 4 * (32 * ch.val + sb.val)) = (s.scf[entryIdx ch sb]).map (BitVec.setWidth 32)) ∧
    (s.mv = true → ∀ ch gr sb b, (s.sample[sampleIdx ch gr sb]).bind f64Bits = some b →
      s.readWindow (0x1000 + 8 * ((12 * ch.val + gr.val) * 32 + sb.val)) = some (b.extractLsb' 0 32) ∧
      s.readWindow (0x1000 + 8 * ((12 * ch.val + gr.val) * 32 + sb.val) + 4) = some (b.extractLsb' 32 32))

/-- 10_state R25, R15: the registers of the header view, bit by bit, for the word in `HDR`: `HDRF`, and the four optional
values as a valid bit and a field that is 0 when there is no value. That the bits between are zero R25 says of `BITRATE`
only; of `SRATE`, `FSAMP`, `FSIZE` it is the model's reading (log entry 12). -/
def Obligations.HeaderViewRegisters : Prop :=
  ∀ (s : State) (w : Word), s.hv = true → s.hdr = some w →
    (∃ f : Word, s.readWindow 0x014 = some f ∧
      f.extractLsb' 0 2 = w.extractLsb' 19 2 ∧ f.extractLsb' 2 2 = w.extractLsb' 17 2 ∧ f.getLsbD 4 = !w.getLsbD 16 ∧
      f.getLsbD 5 = w.getLsbD 9 ∧ f.getLsbD 6 = w.getLsbD 8 ∧ f.extractLsb' 7 2 = w.extractLsb' 6 2 ∧
      f.extractLsb' 9 2 = w.extractLsb' 4 2 ∧ f.getLsbD 11 = w.getLsbD 3 ∧ f.getLsbD 12 = w.getLsbD 2 ∧
      f.extractLsb' 13 2 = w.extractLsb' 0 2 ∧
      (f.extractLsb' 15 3).toNat = (if w.extractLsb' 17 2 = 3#2 then 4 else 1) ∧ f.extractLsb' 18 14 = 0#14) ∧
    (∃ r : Word, s.readWindow 0x018 = some r ∧ r.getLsbD 31 = (bitrate w).isSome ∧
      (r.extractLsb' 0 9).toNat = (bitrate w).getD 0 ∧ r.extractLsb' 9 22 = 0#22) ∧
    (∃ r : Word, s.readWindow 0x01C = some r ∧ r.getLsbD 31 = (samplerate w).isSome ∧
      (r.extractLsb' 0 16).toNat = (samplerate w).getD 0 ∧ r.extractLsb' 16 15 = 0#15) ∧
    (∃ r : Word, s.readWindow 0x020 = some r ∧ r.getLsbD 31 = (frameSamples w).isSome ∧
      (r.extractLsb' 0 11).toNat = (frameSamples w).getD 0 ∧ r.extractLsb' 11 20 = 0#20) ∧
    (∃ r : Word, s.readWindow 0x024 = some r ∧ r.getLsbD 31 = (frameSize w).isSome ∧
      (r.extractLsb' 0 13).toNat = (frameSize w).getD 0 ∧ r.extractLsb' 13 18 = 0#18)

/-! ## BitStream -/

/-- The bit-cursor law of `ReadBits`, which 40_bitstream.md derives from its rule R84, and that the cache stays as
10_state.md's invariants say. -/
def Obligations.BitCursorLaw : Prop :=
  ∀ (src : Source) (st : BitStream) (n : Nat), StreamOk src st → 1 ≤ n → n ≤ 32 →
    (readBits src n st = none ↔ 8 * src.len < bitCursor st + n) ∧
    ∀ (r : Nat) (st' : BitStream), readBits src n st = some (r, st') →
      r = src.streamBits (bitCursor st) n ∧ bitCursor st' = bitCursor st + n ∧ st'.pos = (bitCursor st + n + 7) / 8 ∧
      st'.cacheLen.toNat = 8 * st'.pos - (bitCursor st + n) ∧ StreamOk src st'

/-- 40_bitstream R83, R86: RDBITS of a legal width with enough bits left returns the next stream bits, right-aligned,
moves the bit cursor by exactly `n`, and changes nothing else. -/
def Obligations.RdbitsReturnsStreamBits : Prop :=
  ∀ (s : State) (n : BitVec 8), 1 ≤ n.toNat → n.toNat ≤ 32 → s.dead = false → StreamOk s.src s.stream →
    bitCursor s.stream + n.toNat ≤ 8 * s.src.len →
    ∃ t, exec (.rdbits n) s = .next t ∧
      t = { s with
        rdata := some (BitVec.ofNat 32 (s.src.streamBits (bitCursor s.stream) n.toNat)), stream := t.stream, code := .ok } ∧
      bitCursor t.stream = bitCursor s.stream + n.toNat ∧ StreamOk t.src t.stream

/-- 40_bitstream R88: a bit read past the end of the source is fatal. -/
def Obligations.RdbitsPastEndFatal : Prop :=
  ∀ (s : State) (n : BitVec 8), 1 ≤ n.toNat → n.toNat ≤ 32 → s.dead = false → StreamOk s.src s.stream →
    8 * s.src.len < bitCursor s.stream + n.toNat →
    ∃ t, exec (.rdbits n) s = .next t ∧ FatalOf .endOfStream s t

/-- 30_encoding R62, 60_exceptions R155: the operand is the low byte as it stands, and a width of 0 or above 32 is
rejected in every state, a dead one included; a legal width is not, in any state, one just rejected included. -/
def Obligations.RdbitsWidthOperand : Prop :=
  (∀ w : CmdWord, w.extractLsb' 8 8 = 2#8 → decode w = .ok (.rdbits (w.extractLsb' 0 8))) ∧
  ∀ (s : State) (n : BitVec 8),
    (n.toNat = 0 ∨ 32 < n.toNat → exec (.rdbits n) s = .next { s with code := .invalidWidth, err := true }) ∧
    (1 ≤ n.toNat → n.toNat ≤ 32 → ∃ t, exec (.rdbits n) s = .next t ∧ t.code ≠ .invalidWidth)

/-- 20_memory R46: reading `a` bits and then `b` bits sees the same bits as reading `a + b` at once. -/
def Obligations.MixedWidthReadsAgree : Prop :=
  ∀ (s : State) (a b c : BitVec 8), 1 ≤ a.toNat → 1 ≤ b.toNat → c.toNat = a.toNat + b.toNat → c.toNat ≤ 32 →
    s.dead = false → StreamOk s.src s.stream → bitCursor s.stream + c.toNat ≤ 8 * s.src.len →
    ∃ t u v x y z, exec (.rdbits a) s = .next t ∧ exec (.rdbits b) t = .next u ∧ exec (.rdbits c) s = .next v ∧
      t.rdata = some x ∧ u.rdata = some y ∧ v.rdata = some z ∧
      z.toNat = x.toNat * 2 ^ b.toNat + y.toNat ∧ u.stream = v.stream

/-- 40_bitstream R81: the four outcomes of PEEK, each with its whole next state. -/
def Obligations.PeekOutcomes : Prop :=
  ∀ s : State,
    (s.dead = false → s.stream.cacheLen = 0#3 → s.stream.pos + 4 ≤ s.src.len →
      exec .peek s = .next { s with
        rdata := some (BitVec.ofNat 32 ((s.src.byte s.stream.pos).toNat * 2 ^ 24 + (s.src.byte (s.stream.pos + 1)).toNat * 2 ^ 16
          + (s.src.byte (s.stream.pos + 2)).toNat * 2 ^ 8 + (s.src.byte (s.stream.pos + 3)).toNat)),
        code := .ok }) ∧
    (s.dead = false → s.stream.cacheLen = 0#3 → s.src.len < s.stream.pos + 4 →
      exec .peek s = .next { s with code := .endOfStream }) ∧
    (s.dead = false → s.stream.cacheLen ≠ 0#3 → exec .peek s = .next { s with code := .cacheNotEmpty, err := true }) ∧
    (s.dead = true → exec .peek s = .next { s with code := .streamDead, err := true })

/-- 20_memory R48, R46: an accepted peek returns the next 32 bits of the stream, those RDBITS 32 then reads. -/
def Obligations.PeekThenReadSameWord : Prop :=
  ∀ s : State, s.dead = false → s.stream.cacheLen = 0#3 → s.stream.cache = 0#7 → s.stream.pos + 4 ≤ s.src.len →
    ∃ t u, exec .peek s = .next t ∧ exec (.rdbits 32) t = .next u ∧
      t.rdata = some (BitVec.ofNat 32 (s.src.streamBits (8 * s.stream.pos) 32)) ∧ t.stream = s.stream ∧
      u.rdata = t.rdata ∧ u.stream.pos = s.stream.pos + 4 ∧ u.stream.cacheLen = 0#3

/-- 20_memory R49: a second peek changes nothing. -/
def Obligations.PeekIdempotent : Prop := ∀ s t : State, exec .peek s = .next t → exec .peek t = .next t

/-- 70_reset R176: `RDBITS cache_len` reads the left-over bits out and leaves the cursor where it is. -/
def Obligations.LeftOverBitsReadOut : Prop :=
  ∀ s : State, s.dead = false → s.stream.cacheLen ≠ 0#3 →
    ∃ t, exec (.rdbits (BitVec.setWidth 8 s.stream.cacheLen)) s = .next t ∧ t.code = .ok ∧
      t.stream.cacheLen = 0#3 ∧ t.stream.pos = s.stream.pos ∧ t.rdata = some (BitVec.setWidth 32 s.stream.cache)

/-! ## Header -/

/-- 41_frame_header R100: PARSE latches a header word and no other, clears the tables, and ends OK in every state. -/
def Obligations.ParseLatchesHeader : Prop :=
  ∀ (s : State) (w : Word), s.wdata = some w →
    (w.extractLsb' 21 11 = 0x7FF#11 → exec .parse s = .next { s with
      hdr := some w, hv := true, av := false, sv := false, mv := false, nch := 0, alloc := noEntries, scf := noEntries,
      sample := noEntries, code := .ok }) ∧
    (w.extractLsb' 21 11 ≠ 0x7FF#11 → exec .parse s = .next { s with
      hdr := none, hv := false, av := false, sv := false, mv := false, nch := 0, alloc := noEntries, scf := noEntries,
      sample := noEntries, code := .ok })

/-- The model's choice (log entry 5, of 93 U14): PARSE of a `WDATA` that holds no value parses some word and ends OK. -/
def Obligations.ParseWithoutOperandEndsOk : Prop :=
  ∀ s : State, s.wdata = none →
    ∃ w t, exec .parse s = .next t ∧ exec .parse { s with wdata := some w } = .next { t with wdata := some w, draws := s.draws } ∧
      t.code = .ok ∧ t.wdata = none

/-- 41_frame_header R101: the headers are the words from 0xFFE00000 to 0xFFFFFFFF. -/
def Obligations.HeaderWordsAreTopRange : Prop := ∀ w : Word, isHeader w = true ↔ 0xFFE00000 ≤ w.toNat

/-- 41_frame_header R102, R104, R105, R110: the decoders of the version, the layer, the CRC flag and the slot size. -/
def Obligations.HeaderFieldDecoders : Prop :=
  ∀ w : Word,
    [Version.mpeg25, .reserved, .mpeg2, .mpeg1][(w.extractLsb' 19 2).toNat]? = some (version w) ∧
    [Layer.reserved, .layerIII, .layerII, .layerI][(w.extractLsb' 17 2).toNat]? = some (layer w) ∧
    crcPresent w = decide (w.extractLsb' 16 1 = 0#1) ∧
    slotSize w = if w.extractLsb' 17 2 = 3#2 then 4 else 1

/-- 41_frame_header R106, R107: exactly which words have no bitrate, and which no sample rate. -/
def Obligations.UnresolvedRates : Prop :=
  ∀ w : Word,
    (bitrate w = none ↔ w.extractLsb' 12 4 = 0#4 ∨ w.extractLsb' 12 4 = 15#4 ∨ w.extractLsb' 19 2 = 1#2 ∨ w.extractLsb' 17 2 = 0#2) ∧
    (samplerate w = none ↔ w.extractLsb' 10 2 = 3#2 ∨ w.extractLsb' 19 2 = 1#2)

/-- 41_frame_header R111: the frame size, and when there is none. -/
def Obligations.FrameSizeFormula : Prop :=
  ∀ w : Word,
    (frameSize w = none ↔ bitrate w = none ∨ samplerate w = none ∨ frameSamples w = none) ∧
    ∀ br sr fs, bitrate w = some br → samplerate w = some sr → frameSamples w = some fs →
      frameSize w = some (fs / 8 * (br * 1000) / sr + if w.getLsbD 9 then (if w.extractLsb' 17 2 = 3#2 then 4 else 1) else 0)

/-- 41_frame_header R113: every available frame size lies between 24 and 2881, and both occur. -/
def Obligations.FrameSizeBounds : Prop :=
  (∀ (w : Word) (n : Nat), frameSize w = some n → 24 ≤ n ∧ n ≤ 2881) ∧
  frameSize 0xFFF21400#32 = some 24 ∧ frameSize 0xFFE4EA00#32 = some 2881

/-! ## Scanner -/

/-- 42_frame_scanner R121: the transition table. -/
def Obligations.ScannerTransitions : Prop :=
  ∀ (src : Source) (pos : Nat),
    (pos + 4 ≤ src.len → isHeader (src.peek4 pos) = true → scanMicro src .seeking pos = .goOn .frameFound pos) ∧
    ((src.len < pos + 4 ∨ isHeader (src.peek4 pos) = false) → pos + 1 ≤ src.len → scanMicro src .seeking pos = .goOn .seeking (pos + 1)) ∧
    ((src.len < pos + 4 ∨ isHeader (src.peek4 pos) = false) → src.len < pos + 1 → scanMicro src .seeking pos = .stop (.exhausted pos)) ∧
    (pos + headerBytes (src.peek4 pos) ≤ src.len →
      scanMicro src .frameFound pos = .stop (.header (src.peek4 pos) (pos + headerBytes (src.peek4 pos)))) ∧
    (src.len < pos + headerBytes (src.peek4 pos) → scanMicro src .frameFound pos = .stop (.exhausted src.len))

/-- 42_frame_scanner R120, R122, R125: SCAN consumes the first header at or after the cursor, at any byte offset, with its
CRC bytes if it has any, and latches it; the cache and `RDATA` are not touched. -/
def Obligations.ScanTakesFirstHeader : Prop :=
  ∀ (s : State) (q : Nat), s.dead = false → s.stream.cacheLen = 0#3 → s.stream.pos ≤ q → q + 4 ≤ s.src.len →
    isHeader (s.src.peek4 q) = true → (∀ p, s.stream.pos ≤ p → p < q → isHeader (s.src.peek4 p) = false) →
    q + (if (s.src.peek4 q).getLsbD 16 then 4 else 6) ≤ s.src.len →
    exec .scan s = .next { s with
      stream := ⟨s.stream.cache, s.stream.cacheLen, q + if (s.src.peek4 q).getLsbD 16 then 4 else 6⟩,
      hdr := some (s.src.peek4 q), hv := true, av := false, sv := false, mv := false, nch := 0, alloc := noEntries,
      scf := noEntries, sample := noEntries, scanState := .seeking, code := .ok }

/-- 42_frame_scanner R124: a header whose CRC bytes are cut off ends the scan at the end of the source, not yielded. -/
def Obligations.ScanStopsAtCutCrc : Prop :=
  ∀ (s : State) (q : Nat), s.dead = false → s.stream.cacheLen = 0#3 → s.stream.pos ≤ q → q + 4 ≤ s.src.len →
    isHeader (s.src.peek4 q) = true → (∀ p, s.stream.pos ≤ p → p < q → isHeader (s.src.peek4 p) = false) →
    (s.src.peek4 q).getLsbD 16 = false → s.src.len < q + 6 →
    exec .scan s = .next { s with
      stream := ⟨s.stream.cache, s.stream.cacheLen, s.src.len⟩, hdr := none, hv := false, av := false, sv := false,
      mv := false, nch := 0, alloc := noEntries, scf := noEntries, sample := noEntries, scanState := .seeking, code := .scanEnd }

/-- 42_frame_scanner R120, 60_exceptions R151: without a header ahead SCAN ends normally at the end of the source. -/
def Obligations.ScanEndsWithoutHeader : Prop :=
  ∀ s : State, s.dead = false → s.stream.cacheLen = 0#3 → s.stream.pos ≤ s.src.len →
    (∀ p, s.stream.pos ≤ p → p + 4 ≤ s.src.len → isHeader (s.src.peek4 p) = false) →
    exec .scan s = .next { s with
      stream := ⟨s.stream.cache, s.stream.cacheLen, s.src.len⟩, hdr := none, hv := false, av := false, sv := false,
      mv := false, nch := 0, alloc := noEntries, scf := noEntries, sample := noEntries, scanState := .seeking, code := .scanEnd }

/-- 42_frame_scanner R123: the two CRC bytes of the header SCAN yields have no influence on what it does. -/
def Obligations.CrcBytesNotExamined : Prop :=
  ∀ (s : State) (q : Nat) (src' : Source), s.dead = false → s.stream.cacheLen = 0#3 → s.stream.pos ≤ q → q + 6 ≤ s.src.len →
    isHeader (s.src.peek4 q) = true → (∀ p, s.stream.pos ≤ p → p < q → isHeader (s.src.peek4 p) = false) →
    (s.src.peek4 q).getLsbD 16 = false → src'.len = s.src.len →
    (∀ a, a ≠ q + 4 → a ≠ q + 5 → src'.byte a = s.src.byte a) →
    ∃ t, exec .scan s = .next t ∧ exec .scan { s with src := src' } = .next { t with src := src' } ∧ t.hv = true

/-! ## Layer I decoder -/

/-- 30_encoding R69: the order of the fields in the code sections and in the sample section. -/
def Obligations.PayloadFieldOrder : Prop :=
  ∀ n : Fin 3, n ≠ 0 →
    (codeOrder n).length = 32 * n.val ∧ (sampleOrder n).length = 12 * (32 * n.val) ∧
    ∀ (gr : Fin 12) (ch : Fin 2) (sb : Fin 32), ch.val < n.val →
      (codeOrder n)[n.val * sb.val + ch.val]? = some (ch, sb) ∧
      (sampleOrder n)[32 * n.val * gr.val + (n.val * sb.val + ch.val)]? = some (gr, ch, sb)

/-- 43_layer1_decoder R131, R130: RDALLOC with its bits present stores every 4-bit code of the stream as read, consumes
exactly `128 * nch` bits, and invalidates the later tables. -/
def Obligations.RdallocStoresCodes : Prop :=
  ∀ (s : State) (w : Word) (n : Fin 3), s.dead = false → s.hv = true → s.hdr = some w → StreamOk s.src s.stream →
    n = (if w.extractLsb' 6 2 = 3#2 then 1 else 2) → bitCursor s.stream + 128 * n.val ≤ 8 * s.src.len →
    ∃ t, exec .rdalloc s = .next t ∧
      (∀ ch sb, t.alloc[entryIdx ch sb] = if ch.val < n.val then
        some (BitVec.ofNat 4 (s.src.streamBits (bitCursor s.stream + 4 * (n.val * sb.val + ch.val)) 4)) else none) ∧
      bitCursor t.stream = bitCursor s.stream + 128 * n.val ∧ StreamOk t.src t.stream ∧
      t = { s with
        alloc := t.alloc, stream := t.stream, nch := n, av := true, sv := false, mv := false, scf := noEntries,
        sample := noEntries, code := .ok }

/-- 43_layer1_decoder R132: RDSCF with its bits present stores a 6-bit code for each nonzero allocation code and 0 for
the others, and consumes exactly `6 * K` bits. -/
def Obligations.RdscfStoresScaleFactors : Prop :=
  ∀ s : State, s.dead = false → s.hv = true → s.av = true → StreamOk s.src s.stream →
    bitCursor s.stream + 6 * s.nonzeroCodes ≤ 8 * s.src.len →
    ∃ t, exec .rdscf s = .next t ∧
      (∀ ch sb, t.scf[entryIdx ch sb] = if s.nch.val ≤ ch.val then none
        else if s.allocCode ch sb = 0#4 then some 0#6
        else some (BitVec.ofNat 6 (s.src.streamBits (bitCursor s.stream +
          6 * ((codeOrder s.nch).take (s.nch.val * sb.val + ch.val)).countP fun p => s.allocCode p.1 p.2 ≠ 0) 6))) ∧
      bitCursor t.stream = bitCursor s.stream + 6 * s.nonzeroCodes ∧ StreamOk t.src t.stream ∧
      t = { s with scf := t.scf, stream := t.stream, sv := true, mv := false, sample := noEntries, code := .ok }

/-- 43_layer1_decoder R133, R134: RDSMP with its bits present and no code 15 stores `+0.0` for a muted subband and
`((f64(s) /. f64(2^nb)) -. 0.5) *. LINEAR_TABLE[nb-1] *. SF_TABLE[scf]` otherwise, and consumes exactly `12 * S` bits. -/
def Obligations.RdsmpStoresSamples : Prop :=
  ∀ s : State, s.dead = false → s.hv = true → s.av = true → s.sv = true → StreamOk s.src s.stream →
    (∀ ch sb, ch.val < s.nch.val → s.allocCode ch sb ≠ 15#4) → bitCursor s.stream + 12 * s.sumOfCodes ≤ 8 * s.src.len →
    ∃ t, exec .rdsmp s = .next t ∧
      (∀ ch gr sb,
        (s.nch.val ≤ ch.val → t.sample[sampleIdx ch gr sb] = none) ∧
        (ch.val < s.nch.val → s.allocCode ch sb = 0#4 → t.sample[sampleIdx ch gr sb] = some (.finite ⟨false, 0, 0⟩)) ∧
        (ch.val < s.nch.val → s.allocCode ch sb ≠ 0#4 → ∀ h : (s.allocCode ch sb).toNat - 1 < 14,
          t.sample[sampleIdx ch gr sb] = some (mulF64 (mulF64
            (subF64 (divF64
              (f64OfNat (s.src.streamBits (bitCursor s.stream + gr.val * s.sumOfCodes +
                (((codeOrder s.nch).take (s.nch.val * sb.val + ch.val)).map fun p => (s.allocCode p.1 p.2).toNat).sum)
                (s.allocCode ch sb).toNat))
              (f64OfNat (2 ^ (s.allocCode ch sb).toNat))) f64Half)
            (.finite (Config.linearTable ⟨(s.allocCode ch sb).toNat - 1, h⟩)))
            (.finite (Config.sfTable (s.scfCode ch sb).toFin))))) ∧
      bitCursor t.stream = bitCursor s.stream + 12 * s.sumOfCodes ∧ StreamOk t.src t.stream ∧
      t = { s with sample := t.sample, stream := t.stream, mv := true, code := .ok }

/-- 43_layer1_decoder R135, 60_exceptions R155.7: at the first code 15 in loop order RDSMP reads the 15-bit field, so
END_OF_STREAM wins when it is not all there, and then raises LINEAR_INDEX_RANGE. -/
def Obligations.CodeFifteenFaults : Prop :=
  ∀ (s : State) (before after : List (Fin 2 × Fin 32)) (p : Fin 2 × Fin 32),
    s.dead = false → s.hv = true → s.av = true → s.sv = true → StreamOk s.src s.stream →
    codeOrder s.nch = before ++ p :: after → (∀ q ∈ before, s.allocCode q.1 q.2 ≠ 15#4) → s.allocCode p.1 p.2 = 15#4 →
    (bitCursor s.stream + (before.map fun q => (s.allocCode q.1 q.2).toNat).sum + 15 ≤ 8 * s.src.len →
      ∃ t, exec .rdsmp s = .next t ∧ FatalOf .linearIndexRange s t) ∧
    (8 * s.src.len < bitCursor s.stream + (before.map fun q => (s.allocCode q.1 q.2).toNat).sum + 15 →
      ∃ t, exec .rdsmp s = .next t ∧ FatalOf .endOfStream s t)

/-- 43_layer1_decoder R141, 70_reset R180: each decoder section that is not all there kills the stream. -/
def Obligations.TruncatedSectionsFatal : Prop :=
  ∀ s : State, s.dead = false → s.hv = true → StreamOk s.src s.stream →
    (∀ w, s.hdr = some w → 8 * s.src.len < bitCursor s.stream + 128 * (if w.extractLsb' 6 2 = 3#2 then 1 else 2) →
      (∃ t, exec .rdalloc s = .next t ∧ FatalOf .endOfStream s t) ∧ ∃ t, exec .decl1 s = .next t ∧ FatalOf .endOfStream s t) ∧
    (s.av = true → 8 * s.src.len < bitCursor s.stream + 6 * s.nonzeroCodes →
      ∃ t, exec .rdscf s = .next t ∧ FatalOf .endOfStream s t) ∧
    (s.av = true → s.sv = true → (∀ ch sb, ch.val < s.nch.val → s.allocCode ch sb ≠ 15#4) →
      8 * s.src.len < bitCursor s.stream + 12 * s.sumOfCodes → ∃ t, exec .rdsmp s = .next t ∧ FatalOf .endOfStream s t)

/-- 43_layer1_decoder R136: DECL1 and the host sequence RDALLOC; RDSCF; RDSMP, stopped at the first outcome that is not
OK, reach the same state from every state. -/
def Obligations.Decl1EqualsStepCommands : Prop :=
  ∀ s : State, exec .decl1 s = thenRun (thenRun (exec .rdalloc s) .rdscf) .rdsmp

/-- 43_layer1_decoder R136, 30_encoding R70: DECL1 completes when the payload, as its own allocation codes lay it out, is
all there and holds no code 15; it then sets all three valid bits and has consumed `128*nch + 6*K + 12*S` bits. -/
def Obligations.Decl1DecodesWholePayload : Prop :=
  ∀ (s : State) (w : Word) (n : Fin 3) (code : Fin 2 × Fin 32 → Nat), s.dead = false → s.hv = true → s.hdr = some w →
    StreamOk s.src s.stream → n = (if w.extractLsb' 6 2 = 3#2 then 1 else 2) →
    (∀ p, code p = s.src.streamBits (bitCursor s.stream + 4 * (n.val * p.2.val + p.1.val)) 4) →
    (∀ p, p.1.val < n.val → code p ≠ 15) →
    bitCursor s.stream + (128 * n.val + 6 * (codeOrder n).countP (fun p => code p ≠ 0) + 12 * ((codeOrder n).map code).sum)
      ≤ 8 * s.src.len →
    ∃ t, exec .decl1 s = .next t ∧
      (∀ ch sb, t.alloc[entryIdx ch sb] = if ch.val < n.val then some (BitVec.ofNat 4 (code (ch, sb))) else none) ∧
      bitCursor t.stream = bitCursor s.stream +
        (128 * n.val + 6 * (codeOrder n).countP (fun p => code p ≠ 0) + 12 * ((codeOrder n).map code).sum) ∧
      StreamOk t.src t.stream ∧
      t = { s with
        alloc := t.alloc, scf := t.scf, sample := t.sample, stream := t.stream, nch := n, av := true, sv := true,
        mv := true, code := .ok }

/-- 70_reset R176: after a DECL1 that started at a byte boundary, the cache is empty exactly when `K + 2*S` is a
multiple of 4. -/
def Obligations.LeftOverBitsAfterFrame : Prop :=
  ∀ s t : State, Inv s → s.stream.cacheLen = 0#3 → exec .decl1 s = .next t → t.code = .ok →
    (t.stream.cacheLen = 0#3 ↔ (t.nonzeroCodes + 2 * t.sumOfCodes) % 4 = 0)

/-! ## Binary64 -/

/-- 43_layer1_decoder R134: `v = s / 2^nb - 0.5` "is computed without rounding error". -/
def Obligations.DequantizerInputExact : Prop :=
  ∀ nb v : Nat, 1 ≤ nb → nb ≤ 14 → v < 2 ^ nb →
    ∃ x, subF64 (divF64 (f64OfNat v) (f64OfNat (2 ^ nb))) f64Half = .finite x ∧
      valueF64 x = (v : ℚ) / 2 ^ nb - 1 / 2 ∧ (v = 2 ^ (nb - 1) → x = ⟨false, 0, 0⟩)

/-- 43_layer1_decoder R138: round to nearest, ties to even. A number from half an ulp above the largest finite number on
gives infinity; any other gives a finite number of the sign asked for, as near to the exact one as any finite number is,
and with an even last bit where another number is as near. -/
def Obligations.RoundingIsNearest : Prop :=
  ∀ (neg : Bool) (n d : Nat) (e : Int), 0 < d →
    ((2 ^ 54 - 1) * (2 : ℚ) ^ (970 : Int) ≤ (n : ℚ) / d * (2 : ℚ) ^ e → roundF64 neg n d e = .inf neg) ∧
    ((n : ℚ) / d * (2 : ℚ) ^ e < (2 ^ 54 - 1) * (2 : ℚ) ^ (970 : Int) →
      ∃ x : FiniteF64, roundF64 neg n d e = .finite x ∧ x.neg = neg ∧
        ∀ y : FiniteF64,
          |valueF64 x - (if neg then -1 else 1) * ((n : ℚ) / d) * (2 : ℚ) ^ e| ≤
            |valueF64 y - (if neg then -1 else 1) * ((n : ℚ) / d) * (2 : ℚ) ^ e| ∧
          (|valueF64 x - (if neg then -1 else 1) * ((n : ℚ) / d) * (2 : ℚ) ^ e| =
            |valueF64 y - (if neg then -1 else 1) * ((n : ℚ) / d) * (2 : ℚ) ^ e| →
            valueF64 y ≠ valueF64 x → x.frac.getLsbD 0 = false))

/-- 43_layer1_decoder R142: with tables of positive numbers the sign bit of a sample is that of `v`: set exactly for
`s < 2^(nb-1)`; and `s = 2^(nb-1)` gives `+0.0`. -/
def Obligations.SampleSignFollowsCode : Prop :=
  ∀ (linear : Fin 14 → FiniteF64) (sf : Fin 64 → FiniteF64) (nb : BitVec 4) (scf : BitVec 6) (v : Nat),
    (∀ i, (linear i).neg = false ∧ (linear i).expo ≠ 0) → (∀ i, (sf i).neg = false ∧ (sf i).expo ≠ 0) →
    nb ≠ 0#4 → nb ≠ 15#4 → v < 2 ^ nb.toNat →
    ∃ r, sampleOf linear sf nb scf v = .ok r ∧ r ≠ .nan ∧
      ((∃ x, r = .finite x ∧ x.neg = decide (v < 2 ^ (nb.toNat - 1))) ∨ r = .inf (decide (v < 2 ^ (nb.toNat - 1)))) ∧
      (v = 2 ^ (nb.toNat - 1) → r = .finite ⟨false, 0, 0⟩)

/-- 43_layer1_decoder R142 as it reads: normal positive tables give finite samples. Expected to fail, since R138's
correctly rounded product of two large table entries overflows to infinity (log entry 10). -/
def Obligations.NormalTablesGiveFiniteSamples : Prop :=
  ∀ (linear : Fin 14 → FiniteF64) (sf : Fin 64 → FiniteF64) (nb : BitVec 4) (scf : BitVec 6) (v : Nat),
    (∀ i, (linear i).neg = false ∧ (linear i).expo ≠ 0) → (∀ i, (sf i).neg = false ∧ (sf i).expo ≠ 0) →
    nb ≠ 0#4 → nb ≠ 15#4 → v < 2 ^ nb.toNat → ∃ x, sampleOf linear sf nb scf v = .ok (.finite x)

/-! ## Outcomes -/

/-- 60_exceptions R152: whatever the command, an outcome that is a rejection changes `CODE` and `ERR` only. -/
def Obligations.RejectionsChangeStatusOnly : Prop :=
  ∀ (i : Instr) (s t : State), exec i s = .next t →
    t.code = .invalidWidth ∨ t.code = .cacheNotEmpty ∨ t.code = .sequenceError ∨ t.code = .streamDead →
    t = { s with code := t.code, err := true }

/-- 60_exceptions R153: a command that sets `DEAD` is one of the five that can, ended with one of the two fatal codes,
and left what a fatal fault leaves. -/
def Obligations.FatalFaultsPoison : Prop :=
  ∀ (i : Instr) (s t : State), exec i s = .next t → s.dead = false → t.dead = true →
    ((∃ n, i = .rdbits n) ∨ i = .rdalloc ∨ i = .rdscf ∨ i = .rdsmp ∨ i = .decl1) ∧
    (t.code = .endOfStream ∨ (t.code = .linearIndexRange ∧ (i = .rdsmp ∨ i = .decl1))) ∧ FatalOf t.code s t

/-- 60_exceptions R153, R155: while `DEAD` = 1 every command but RESET and PARSE, of legal width, is rejected. -/
def Obligations.DeadUnitRejects : Prop :=
  ∀ (i : Instr) (s : State), s.dead = true → i ≠ .reset → i ≠ .parse → i.wellFormed = true →
    exec i s = .next { s with code := .streamDead, err := true }

/-- 60_exceptions R152, R155: SCAN with bits in the cache, and a decoder command without its inputs. -/
def Obligations.MisuseRejected : Prop :=
  ∀ s : State, s.dead = false →
    (s.stream.cacheLen ≠ 0#3 → exec .scan s = .next { s with code := .cacheNotEmpty, err := true }) ∧
    (s.hv = false → exec .rdalloc s = .next { s with code := .sequenceError, err := true } ∧
      exec .decl1 s = .next { s with code := .sequenceError, err := true }) ∧
    (s.hv = false ∨ s.av = false → exec .rdscf s = .next { s with code := .sequenceError, err := true }) ∧
    (s.hv = false ∨ s.av = false ∨ s.sv = false → exec .rdsmp s = .next { s with code := .sequenceError, err := true })

/-! ## Frames: what a command leaves unchanged, whatever its outcome -/

/-- PEEK (40_bitstream R81) changes `RDATA`, `CODE`, `ERR`; no byte of the source. -/
def Obligations.PeekFrame : Prop :=
  ∀ s t : State, exec .peek s = .next t →
    t = { s with rdata := t.rdata, code := t.code, err := t.err } ∧ ∀ a, t.src.byte a = s.src.byte a

/-- RDBITS (40_bitstream R83) changes the stream state, `RDATA`, `CODE`, `ERR`, unless it dies of a fatal fault. -/
def Obligations.RdbitsFrame : Prop :=
  ∀ (n : BitVec 8) (s t : State), exec (.rdbits n) s = .next t →
    (t.dead = s.dead → t = { s with rdata := t.rdata, stream := t.stream, code := t.code, err := t.err }) ∧
    (t.dead ≠ s.dead → FatalOf .endOfStream s t) ∧ ∀ a, t.src.byte a = s.src.byte a

/-- PARSE (41_frame_header R100) changes the header, the tables, `CODE` and the model's `draws`: no stream state, no
`RDATA`, no sticky flag. -/
def Obligations.ParseFrame : Prop :=
  ∀ s t : State, exec .parse s = .next t →
    t = { s with
      hdr := t.hdr, hv := t.hv, alloc := t.alloc, scf := t.scf, sample := t.sample, av := t.av, sv := t.sv, mv := t.mv,
      nch := t.nch, code := t.code, draws := t.draws } ∧ ∀ a, t.src.byte a = s.src.byte a

/-- SCAN (42_frame_scanner R120) changes the cursor, the header, the tables, `CODE`, `ERR` and, to SEEKING, `scan_state`;
it "never touches the cache or `RDATA`" and sets no `DEAD`. -/
def Obligations.ScanFrame : Prop :=
  ∀ s t : State, exec .scan s = .next t →
    t = { s with
      stream := ⟨s.stream.cache, s.stream.cacheLen, t.stream.pos⟩, hdr := t.hdr, hv := t.hv, alloc := t.alloc, scf := t.scf,
      sample := t.sample, av := t.av, sv := t.sv, mv := t.mv, nch := t.nch, scanState := t.scanState, code := t.code,
      err := t.err } ∧ ∀ a, t.src.byte a = s.src.byte a

/-- RDALLOC and DECL1 (43_layer1_decoder R131, R136) change the stream state, the tables, `CODE`, `ERR`, unless they die. -/
def Obligations.AllocatingCommandsFrame : Prop :=
  ∀ (i : Instr) (s t : State), i = .rdalloc ∨ i = .decl1 → exec i s = .next t →
    (t.dead = s.dead → t = { s with
      stream := t.stream, alloc := t.alloc, scf := t.scf, sample := t.sample, av := t.av, sv := t.sv, mv := t.mv,
      nch := t.nch, code := t.code, err := t.err }) ∧
    (t.dead ≠ s.dead → FatalOf t.code s t) ∧ ∀ a, t.src.byte a = s.src.byte a

/-- RDSCF (43_layer1_decoder R132) keeps `ALLOC`, `AV`, `NCH`, RDSMP (R133) also `SCF` and `SV`, unless they die. -/
def Obligations.LaterSectionsFrame : Prop :=
  ∀ s t : State,
    (exec .rdscf s = .next t →
      (t.dead = s.dead → t = { s with
        stream := t.stream, scf := t.scf, sample := t.sample, sv := t.sv, mv := t.mv, code := t.code, err := t.err }) ∧
      (t.dead ≠ s.dead → FatalOf t.code s t) ∧ ∀ a, t.src.byte a = s.src.byte a) ∧
    (exec .rdsmp s = .next t →
      (t.dead = s.dead → t = { s with
        stream := t.stream, sample := t.sample, mv := t.mv, code := t.code, err := t.err }) ∧
      (t.dead ≠ s.dead → FatalOf t.code s t) ∧ ∀ a, t.src.byte a = s.src.byte a)

/-! ## The whole machine -/

/-- 10_state R31, R16 to R19, 60_exceptions R153: every step, command, host access or reset, keeps the invariants. -/
def Obligations.StepKeepsInvariants : Prop := ∀ s t : State, Inv s → step s = .next t → Inv t

/-- The invariants hold at reset. -/
def Obligations.InvariantsAtReset : Prop := Inv State.reset

/-- 00_scope R4, 20_memory R41: no step changes `SRC`, `LEN` or `START_POS`, nor any byte a read could see. -/
def Obligations.SourceNeverChanges : Prop :=
  ∀ s t : State, step s = .next t → t.src = s.src ∧ ∀ a, t.src.byte a = s.src.byte a

/-- 10_state R22, R26: `ERR` and `DEAD` are sticky: only the reset input and the command word 0x0000 clear them. -/
def Obligations.StickyFlagsClearedByResetOnly : Prop :=
  ∀ s t : State, step s = .next t →
    (s.err = true → t.err = false → s.host.head? = some .resetInput ∨
      ∃ data : Word, s.host.head? = some (.write 0 data) ∧ data.extractLsb' 0 16 = 0x0000#16) ∧
    (s.dead = true → t.dead = false → s.host.head? = some .resetInput ∨
      ∃ data : Word, s.host.head? = some (.write 0 data) ∧ data.extractLsb' 0 16 = 0x0000#16)

/-- 70_reset R183, 60_exceptions R158: every step ends in a next state: no stop, no hang, whatever the state. -/
def Obligations.EveryStepCompletes : Prop := ∀ s : State, ∃ t, step s = .next t
end

