-- ==== Sys2Proof/Laws/BitStream.lean ====
section
/-! SUPPORT. What the bit read can do (spec 40_bitstream R84). -/

namespace Sys2Proof.Machine

/-- A bit read that the cache alone serves (R84, first branch). -/
theorem readBits_cached (src : Source) (n : Nat) (st : BitStream) (h : n ≤ st.cacheLen.toNat) :
    readBits src n st = some (takeBits st.cache.toNat st.cacheLen.toNat n st.pos) := by
  simp [readBits, h]

/-- A bit read that pulls bytes (R84, second branch), with its exact failure condition (R88). -/
theorem readBits_pulling (src : Source) (n : Nat) (st : BitStream) (h : st.cacheLen.toNat < n) :
    readBits src n st =
      if st.pos + (n - st.cacheLen.toNat + 7) / 8 ≤ src.len then
        some (takeBits (appendBytes st.cache.toNat (src.bytes st.pos ((n - st.cacheLen.toNat + 7) / 8)))
          (st.cacheLen.toNat + 8 * ((n - st.cacheLen.toNat + 7) / 8)) n (st.pos + (n - st.cacheLen.toNat + 7) / 8))
      else none := by
  simp [readBits, show ¬ n ≤ st.cacheLen.toNat by omega, Source.avail, Source.read]

@[simp] theorem readField_zero (src : Source) (st : BitStream) : readField src 0 st = some (0, st) := by
  simp [readField]

theorem readField_pos (src : Source) (n : Nat) (st : BitStream) (h : n ≠ 0) : readField src n st = readBits src n st := by
  simp [readField, h]

@[simp] theorem appendBytes_nil (acc : Nat) : appendBytes acc [] = acc := rfl

theorem appendBytes_cons (acc : Nat) (b : Byte) (bs : List Byte) :
    appendBytes acc (b :: bs) = appendBytes (acc * 256 + b.toNat) bs := rfl

theorem Source.bytes_length (src : Source) (pos k : Nat) : (src.bytes pos k).length = k := by
  induction k generalizing pos with
  | zero => rfl
  | succ k ih => simp [Source.bytes, ih]

/-- Reading on: the mixed-width law on stream bits (20_memory R46). -/
theorem Source.streamBits_add (src : Source) (k a b : Nat) :
    src.streamBits k (a + b) = src.streamBits k a * 2 ^ b + src.streamBits (k + a) b := by
  induction b with
  | zero => simp [Source.streamBits]
  | succ b ih =>
    rw [← Nat.add_assoc, Source.streamBits, ih, Source.streamBits, Nat.pow_succ, Nat.add_assoc k a b]; ring

theorem Source.streamBits_lt (src : Source) (k n : Nat) : src.streamBits k n < 2 ^ n := by
  induction n with
  | zero => simp [Source.streamBits]
  | succ n ih =>
    rw [Source.streamBits, Nat.pow_succ]
    have : (src.streamBit (k + n)).toNat ≤ 1 := Bool.toNat_le _
    omega

/-- The last `l` bits of a byte are its low-order bits. -/
theorem Source.streamBits_low (src : Source) (p l : Nat) (h : l ≤ 8) :
    src.streamBits (8 * p + (8 - l)) l = (src.byte p).toNat % 2 ^ l := by
  have main : ∀ m, m ≤ l → src.streamBits (8 * p + (8 - l)) m = (src.byte p).toNat / 2 ^ (l - m) % 2 ^ m := by
    intro m
    induction m with
    | zero => intro _; simp [Source.streamBits, Nat.mod_one]
    | succ m ih =>
      intro hm
      rw [Source.streamBits, ih (by omega)]
      have h1 : (8 * p + (8 - l) + m) / 8 = p := by omega
      have h2 : 7 - (8 * p + (8 - l) + m) % 8 = l - (m + 1) := by omega
      rw [Source.streamBit, h1, h2, BitVec.getLsbD, Nat.testBit_eq_decide_div_mod_eq]
      generalize (src.byte p).toNat = x
      have e : l - m = l - (m + 1) + 1 := by omega
      rw [e, Nat.pow_succ, ← Nat.div_div_eq_div_mul]
      generalize x / 2 ^ (l - (m + 1)) = y
      rw [Nat.pow_succ, Nat.mul_comm (2 ^ m) 2, Nat.mod_mul]
      have : y % 2 = 0 ∨ y % 2 = 1 := by omega
      rcases this with h | h <;> simp [h]
      omega
  have := main l (Nat.le_refl _)
  simpa using this

/-- Bytes appended below `acc` are the stream bits from the first of them on. -/
theorem appendBytes_streamBits (src : Source) (acc pos k : Nat) :
    appendBytes acc (src.bytes pos k) = acc * 2 ^ (8 * k) + src.streamBits (8 * pos) (8 * k) := by
  induction k generalizing acc pos with
  | zero => simp [Source.bytes, appendBytes, Source.streamBits]
  | succ k ih =>
    rw [Source.bytes, appendBytes_cons, ih, show 8 * (k + 1) = 8 + 8 * k by ring, Source.streamBits_add]
    have := Source.streamBits_low src pos 8 (Nat.le_refl _)
    have hb : (src.byte pos).toNat < 2 ^ 8 := (src.byte pos).isLt
    rw [Nat.mod_eq_of_lt hb] at this
    rw [show 8 * pos + (8 - 8) = 8 * pos by omega] at this
    rw [this, show 8 * (pos + 1) = 8 * pos + 8 by ring, Nat.pow_add]; ring

/-- A bit read never moves the cursor past the end of the source. -/
theorem readBits_pos_le (src : Source) (n : Nat) (st : BitStream) (r : Nat) (st' : BitStream)
    (h : readBits src n st = some (r, st')) (hp : st.pos ≤ src.len) : st.pos ≤ st'.pos ∧ st'.pos ≤ src.len := by
  by_cases hn : n ≤ st.cacheLen.toNat
  · rw [readBits_cached src n st hn] at h
    simp only [takeBits, Option.some.injEq, Prod.mk.injEq] at h
    obtain ⟨-, rfl⟩ := h
    exact ⟨Nat.le_refl _, hp⟩
  · rw [readBits_pulling src n st (by omega)] at h
    split at h
    · simp only [takeBits, Option.some.injEq, Prod.mk.injEq] at h
      obtain ⟨-, rfl⟩ := h
      exact ⟨Nat.le_add_right _ _, by assumption⟩
    · simp at h

end Sys2Proof.Machine
end

