-- ==== Sys2Proof/Laws/Exec.lean ====
section
/-! SUPPORT. How a command can end (spec 60_exceptions R150): one lemma per shared check. -/

namespace Sys2Proof.Machine

theorem State.checkByteLevel_cases (s run : State) :
    (s.dead = true ∧ s.checkByteLevel run = s.reject .streamDead) ∨
    (s.dead = false ∧ s.stream.cacheLen ≠ 0 ∧ s.checkByteLevel run = s.reject .cacheNotEmpty) ∨
    (s.dead = false ∧ s.stream.cacheLen = 0 ∧ s.checkByteLevel run = run) := by
  unfold State.checkByteLevel
  cases hd : s.dead
  · by_cases hc : s.stream.cacheLen = 0
    · exact .inr (.inr ⟨rfl, hc, by simp [hc]⟩)
    · exact .inr (.inl ⟨rfl, hc, if_pos hc⟩)
  · exact .inl ⟨rfl, rfl⟩

theorem State.checkDecoder_cases (s run : State) (ready : Bool) :
    (s.dead = true ∧ s.checkDecoder ready run = s.reject .streamDead) ∨
    (s.dead = false ∧ ready = false ∧ s.checkDecoder ready run = s.reject .sequenceError) ∨
    (s.dead = false ∧ ready = true ∧ s.checkDecoder ready run = run) := by
  unfold State.checkDecoder
  cases hd : s.dead <;> cases hr : ready <;> simp

theorem State.peeked_cases (s : State) :
    (s.stream.pos + 4 ≤ s.src.len ∧ s.peeked = { s with rdata := some (s.src.peek4 s.stream.pos), code := .ok }) ∨
    (¬ s.stream.pos + 4 ≤ s.src.len ∧ s.peeked = { s with code := .endOfStream }) := by
  unfold State.peeked Source.avail
  by_cases h : s.stream.pos + 4 ≤ s.src.len <;> simp [h, State.complete]

theorem State.bitsRead_cases (s : State) (n : Nat) :
    (∃ r st, readBits s.src n s.stream = some (r, st) ∧
      s.bitsRead n = { s with rdata := some (BitVec.ofNat 32 r), stream := st, code := .ok }) ∨
    (readBits s.src n s.stream = none ∧ s.bitsRead n = s.fatal .endOfStream) := by
  unfold State.bitsRead
  cases h : readBits s.src n s.stream with
  | none => exact .inr ⟨rfl, rfl⟩
  | some p => exact .inl ⟨p.1, p.2, rfl, rfl⟩

/-- What SCAN does after its checks: a header is latched, or the source is exhausted. -/
theorem State.scanned_cases (s : State) :
    (∃ w pos, scanFrom s.src s.stream.pos = .header w pos ∧
      s.scanned = { s.invalidateTables with
        stream := { s.stream with pos := pos }, hdr := some w, hv := true, scanState := .seeking, code := .ok }) ∨
    (∃ pos, scanFrom s.src s.stream.pos = .exhausted pos ∧
      s.scanned = { s.invalidateTables with
        stream := { s.stream with pos := pos }, hdr := none, hv := false, scanState := .seeking, code := .scanEnd }) := by
  unfold State.scanned
  cases h : scanFrom s.src s.stream.pos with
  | header w pos => exact .inl ⟨w, pos, rfl, rfl⟩
  | exhausted pos => exact .inr ⟨pos, rfl, rfl⟩

theorem State.settle_cases (s : State) (b : Except Code State) :
    (∃ t, b = .ok t ∧ s.settle b = { t with code := .ok }) ∨ (∃ c, b = .error c ∧ s.settle b = s.fatal c) := by
  cases b with
  | ok t => exact .inl ⟨t, rfl, rfl⟩
  | error c => exact .inr ⟨c, rfl, rfl⟩

/-- A step with a pending action performs it. -/
theorem step_cons (s : State) (a : HostAction) (rest : List HostAction) (h : s.host = a :: rest) :
    step s = perform a { s with host := rest } := by
  simp [step, nextAction, h]

end Sys2Proof.Machine
end

