-- ==== Sys2Proof/Laws/Layer1.lean ====
section
/-! SUPPORT. What the shared loop of the decoder can do (spec 43_layer1_decoder R131 to R133). -/

namespace Sys2Proof.Machine

variable {ι α : Type} {k : Nat} (src : Source) (width : ι → Nat) (place : ι → Fin k) (entry : ι → Nat → Except Code α)

@[simp] theorem readEach_nil (st : BitStream) (t : Vector (Option α) k) :
    readEach src width place entry [] st t = .ok (st, t) := rfl

/-- The loop fails on its first field: the read runs out, or the field's value has no entry. -/
theorem readEach_cons_none (i : ι) (is : List ι) (st : BitStream) (t : Vector (Option α) k)
    (h : readField src (width i) st = none) :
    readEach src width place entry (i :: is) st t = .error .endOfStream := by
  simp [readEach, h]

theorem readEach_cons_error (i : ι) (is : List ι) (st st' : BitStream) (t : Vector (Option α) k) (v : Nat) (c : Code)
    (h : readField src (width i) st = some (v, st')) (he : entry i v = .error c) :
    readEach src width place entry (i :: is) st t = .error c := by
  simp [readEach, h, he]

/-- The loop stores its first field and goes on. -/
theorem readEach_cons_ok (i : ι) (is : List ι) (st st' : BitStream) (t : Vector (Option α) k) (v : Nat) (a : α)
    (h : readField src (width i) st = some (v, st')) (he : entry i v = .ok a) :
    readEach src width place entry (i :: is) st t = readEach src width place entry is st' (t.set (place i) (some a)) := by
  simp [readEach, h, he]

/-- All ways the loop can go on a nonempty list. -/
theorem readEach_cons_cases (i : ι) (is : List ι) (st : BitStream) (t : Vector (Option α) k) :
    (readField src (width i) st = none ∧ readEach src width place entry (i :: is) st t = .error .endOfStream) ∨
    (∃ v st' c, readField src (width i) st = some (v, st') ∧ entry i v = .error c ∧
      readEach src width place entry (i :: is) st t = .error c) ∨
    (∃ v st' a, readField src (width i) st = some (v, st') ∧ entry i v = .ok a ∧
      readEach src width place entry (i :: is) st t = readEach src width place entry is st' (t.set (place i) (some a))) := by
  cases h : readField src (width i) st with
  | none => exact .inl ⟨rfl, readEach_cons_none src width place entry i is st t h⟩
  | some p =>
    obtain ⟨v, st'⟩ := p
    cases he : entry i v with
    | error c => exact .inr (.inl ⟨v, st', c, rfl, he, readEach_cons_error src width place entry i is st st' t v c h he⟩)
    | ok a => exact .inr (.inr ⟨v, st', a, rfl, he, readEach_cons_ok src width place entry i is st st' t v a h he⟩)

/-- A loop over two lists is the loop over the first, then over the second. -/
theorem readEach_append (is js : List ι) (st : BitStream) (t : Vector (Option α) k) :
    readEach src width place entry (is ++ js) st t =
      match readEach src width place entry is st t with
      | .ok (st', t') => readEach src width place entry js st' t'
      | .error c => .error c := by
  induction is generalizing st t with
  | nil => rfl
  | cons i is ih =>
    rcases readEach_cons_cases src width place entry i is st t with ⟨h, e⟩ | ⟨v, st', c, h, he, e⟩ | ⟨v, st', a, h, he, e⟩
    · rw [e, List.cons_append, readEach_cons_none _ _ _ _ _ _ _ _ h]
    · rw [e, List.cons_append, readEach_cons_error _ _ _ _ _ _ _ _ _ _ _ h he]
    · rw [e, List.cons_append, readEach_cons_ok _ _ _ _ _ _ _ _ _ _ _ h he, ih]

/-- A place no index of the list names keeps its entry. -/
theorem readEach_other (is : List ι) (st st' : BitStream) (t t' : Vector (Option α) k) (j : Fin k)
    (h : readEach src width place entry is st t = .ok (st', t')) (hj : ∀ i ∈ is, place i ≠ j) : t'[j] = t[j] := by
  induction is generalizing st t with
  | nil => simp only [readEach_nil, Except.ok.injEq, Prod.mk.injEq] at h; rw [h.2]
  | cons i is ih =>
    rcases readEach_cons_cases src width place entry i is st t with ⟨-, e⟩ | ⟨v, st₁, c, -, -, e⟩ | ⟨v, st₁, a, -, -, e⟩
    · simp [e] at h
    · simp [e] at h
    · rw [e] at h
      rw [ih st₁ _ h fun x hx => hj x (List.mem_cons_of_mem _ hx)]
      have hne : (place i).val ≠ j.val := fun heq => hj i (List.mem_cons_self ..) (Fin.ext heq)
      exact Vector.getElem_set_ne _ _ hne

/-- The loop fails only with END_OF_STREAM or with what an entry raises. -/
theorem readEach_error (is : List ι) (st : BitStream) (t : Vector (Option α) k) (c : Code)
    (h : readEach src width place entry is st t = .error c) :
    c = .endOfStream ∨ ∃ i ∈ is, ∃ v, entry i v = .error c := by
  induction is generalizing st t with
  | nil => simp at h
  | cons i is ih =>
    rcases readEach_cons_cases src width place entry i is st t with ⟨-, e⟩ | ⟨v, st₁, d, -, he, e⟩ | ⟨v, st₁, a, -, -, e⟩
    · rw [e, Except.error.injEq] at h; exact .inl h.symm
    · rw [e, Except.error.injEq] at h; exact .inr ⟨i, by simp, v, h ▸ he⟩
    · rw [e] at h
      rcases ih st₁ _ h with rfl | ⟨x, hx, w, hw⟩
      · exact .inl rfl
      · exact .inr ⟨x, List.mem_cons_of_mem _ hx, w, hw⟩

/-- What a body can answer, one lemma per body. -/
theorem State.allocBody_ok (s t : State) (h : s.allocBody = .ok t) :
    ∃ st tab, readEach s.src (fun _ => 4) (fun p => entryIdx p.1 p.2) (fun _ v => .ok (BitVec.ofNat 4 v))
        (codeOrder s.headerChannels) s.stream noEntries = .ok (st, tab) ∧
      t = { s.invalidateTables with nch := s.headerChannels, alloc := tab, av := true, stream := st } := by
  unfold State.allocBody at h
  split at h
  · next st tab e => exact ⟨st, tab, e, (Except.ok.inj h).symm⟩
  · cases h

theorem State.scfBody_ok (s t : State) (h : s.scfBody = .ok t) :
    ∃ st tab, readEach s.src s.scfWidth (fun p => entryIdx p.1 p.2) (fun _ v => .ok (BitVec.ofNat 6 v))
        (codeOrder s.nch) s.stream noEntries = .ok (st, tab) ∧
      t = { s.invalidateScf with scf := tab, sv := true, stream := st } := by
  unfold State.scfBody at h
  split at h
  · next st tab e => exact ⟨st, tab, e, (Except.ok.inj h).symm⟩
  · cases h

theorem State.samplesBody_ok (s t : State) (h : s.samplesBody = .ok t) :
    ∃ st tab, readEach s.src s.sampleWidth (fun p => sampleIdx p.2.1 p.1 p.2.2) s.sampleEntry
        (sampleOrder s.nch) s.stream noEntries = .ok (st, tab) ∧
      t = { s.invalidateSamples with sample := tab, mv := true, stream := st } := by
  unfold State.samplesBody at h
  split at h
  · next st tab e => exact ⟨st, tab, e, (Except.ok.inj h).symm⟩
  · cases h

theorem State.decodeBody_ok (s t : State) (h : s.decodeBody = .ok t) :
    ∃ a b, s.allocBody = .ok a ∧ a.scfBody = .ok b ∧ b.samplesBody = .ok t := by
  unfold State.decodeBody at h
  split at h
  · cases h
  · next a ha =>
    split at h
    · cases h
    · next b hb => exact ⟨a, b, ha, hb, h⟩

/-- The only failure of an entry is the missing fifteenth factor (R135). -/
theorem sampleOf_error (linear : Fin 14 → FiniteF64) (sf : Fin 64 → FiniteF64) (nb : BitVec 4) (scf : BitVec 6) (v : Nat) (c : Code)
    (h : sampleOf linear sf nb scf v = .error c) : c = .linearIndexRange := by
  unfold sampleOf at h
  split at h
  · cases h
  · split at h
    · cases h
    · exact (Except.error.inj h).symm

theorem State.allocBody_error (s : State) (c : Code) (h : s.allocBody = .error c) : c = .endOfStream := by
  unfold State.allocBody at h
  split at h
  · cases h
  · next d e =>
    cases h
    rcases readEach_error _ _ _ _ _ _ _ _ e with h | ⟨_, _, _, h⟩
    · exact h
    · cases h

theorem State.scfBody_error (s : State) (c : Code) (h : s.scfBody = .error c) : c = .endOfStream := by
  unfold State.scfBody at h
  split at h
  · cases h
  · next d e =>
    cases h
    rcases readEach_error _ _ _ _ _ _ _ _ e with h | ⟨_, _, _, h⟩
    · exact h
    · cases h

theorem State.samplesBody_error (s : State) (c : Code) (h : s.samplesBody = .error c) :
    c = .endOfStream ∨ c = .linearIndexRange := by
  unfold State.samplesBody at h
  split at h
  · cases h
  · next d e =>
    cases h
    rcases readEach_error _ _ _ _ _ _ _ _ e with h | ⟨_, _, _, h⟩
    · exact .inl h
    · exact .inr (sampleOf_error _ _ _ _ _ _ h)

theorem State.decodeBody_error (s : State) (c : Code) (h : s.decodeBody = .error c) :
    c = .endOfStream ∨ c = .linearIndexRange := by
  unfold State.decodeBody at h
  split at h
  · next d e => cases h; exact .inl (State.allocBody_error _ _ e)
  · next a _ =>
    split at h
    · next d e => cases h; exact .inl (State.scfBody_error _ _ e)
    · next b _ => exact State.samplesBody_error b c h

end Sys2Proof.Machine
end

