-- ==== Sys2Proof/Laws/Memory.lean ====
section
/-! SUPPORT. The byte memory: read after write, and the canonical form is kept by every operation. -/

namespace Sys2Proof.Machine

theorem Memory.read_write_same (m : List Host.Cell) (a : Nat) (v : Byte) (h : Memory.wf m = true) :
    Memory.read (Memory.write m a v) a = v := by
  induction m with
  | nil => by_cases hv : v = Memory.unlisted <;> simp [Memory.write, Memory.read, hv]
  | cons c m ih =>
    obtain ⟨b, u⟩ := c
    have above : a ≤ b → Memory.read m a = Memory.unlisted := by
      clear ih
      intro hab
      induction m generalizing b u with
      | nil => rfl
      | cons d m ih =>
        obtain ⟨b', u'⟩ := d
        simp only [Memory.wf, Bool.and_eq_true, decide_eq_true_eq] at h
        have : a ≠ b' := by omega
        simp only [Memory.read, this, if_false]
        exact ih b' u' h.2 (by omega)
    have tail : Memory.wf m = true := by
      cases m with
      | nil => rfl
      | cons d m => simp only [Memory.wf, Bool.and_eq_true] at h; exact h.2
    simp only [Memory.write]
    split_ifs with hlt hv hab hv
    · subst hv
      simp only [Memory.read, show a ≠ b by omega, if_false]
      exact above (by omega)
    · simp [Memory.read]
    · subst hv; exact above (by omega)
    · simp [Memory.read]
    · simp only [Memory.read, hab, if_false]
      exact ih tail

theorem Memory.read_write_other (m : List Host.Cell) (a b : Nat) (v : Byte) (h : b ≠ a) :
    Memory.read (Memory.write m a v) b = Memory.read m b := by
  induction m with
  | nil => by_cases hv : v = Memory.unlisted <;> simp [Memory.write, Memory.read, hv, h]
  | cons c m ih =>
    obtain ⟨d, u⟩ := c
    simp only [Memory.write]
    split_ifs with hlt hv hab hv
    · rfl
    · simp [Memory.read, h]
    · subst hab; simp [Memory.read, h]
    · subst hab; simp [Memory.read, h]
    · simp only [Memory.read, ih]

/-- What `Memory.wf` says of a longer list. -/
theorem Memory.wf_cons (a : Nat) (v : Byte) (m : List Host.Cell) :
    Memory.wf ((a, v) :: m) = true ↔ v ≠ Memory.unlisted ∧ (∀ c ∈ m.head?, a < c.1) ∧ Memory.wf m = true := by
  cases m with
  | nil => simp [Memory.wf]
  | cons c m => obtain ⟨b, u⟩ := c; simp [Memory.wf, and_assoc]

/-- Every offset a write leaves listed was listed before or is the one written. -/
theorem Memory.head_write (m : List Host.Cell) (a : Nat) (v : Byte) (k : Nat) (hk : k < a)
    (h : ∀ c ∈ m.head?, k < c.1) (w : Memory.wf m = true) : ∀ c ∈ (Memory.write m a v).head?, k < c.1 := by
  cases m with
  | nil => by_cases hv : v = Memory.unlisted <;> simp [Memory.write, hv, hk]
  | cons d m =>
    obtain ⟨b, u⟩ := d
    have hb : k < b := h (b, u) (by simp)
    simp only [Memory.write]
    split_ifs with hlt hv hab hv
    · simpa using hb
    · simpa using hk
    · intro c hc
      have := ((Memory.wf_cons b u m).1 w).2.1 c hc
      omega
    · simpa using hk
    · simpa using hb

theorem Memory.write_wf (m : List Host.Cell) (a : Nat) (v : Byte) (h : Memory.wf m = true) :
    Memory.wf (Memory.write m a v) = true := by
  induction m with
  | nil => by_cases hv : v = Memory.unlisted <;> simp [Memory.write, Memory.wf, hv]
  | cons c m ih =>
    obtain ⟨b, u⟩ := c
    have w := (Memory.wf_cons b u m).1 h
    simp only [Memory.write]
    split_ifs with hlt hv hab hv
    · exact h
    · exact (Memory.wf_cons _ _ _).2 ⟨hv, by simpa using hlt, h⟩
    · exact w.2.2
    · subst hab; exact (Memory.wf_cons _ _ _).2 ⟨hv, w.2.1, w.2.2⟩
    · exact (Memory.wf_cons _ _ _).2 ⟨w.1, Memory.head_write m a v b (by omega) w.2.1 w.2.2, ih w.2.2⟩

theorem Memory.ofBytes_wf (a : Nat) (bs : List Byte) : Memory.wf (Memory.ofBytes a bs) = true := by
  induction bs generalizing a with
  | nil => rfl
  | cons b bs ih => exact Memory.write_wf _ _ _ (ih (a + 1))

theorem Memory.reset_wf : Memory.wf State.reset.src.mem = true := rfl

/-- Laying out bytes leaves the offsets below unlisted. -/
theorem Memory.read_ofBytes_below (a k : Nat) (bs : List Byte) (h : k < a) :
    Memory.read (Memory.ofBytes a bs) k = Memory.unlisted := by
  induction bs generalizing a with
  | nil => rfl
  | cons b bs ih =>
    rw [Memory.ofBytes, Memory.read_write_other _ _ _ _ (by omega)]
    exact ih (a + 1) (by omega)

/-- A source made of bytes holds exactly those bytes. -/
theorem Memory.read_ofBytes (a k : Nat) (bs : List Byte) :
    Memory.read (Memory.ofBytes a bs) (a + k) = bs.getD k Memory.unlisted := by
  induction bs generalizing a k with
  | nil => rfl
  | cons b bs ih =>
    cases k with
    | zero => simpa [Memory.ofBytes] using Memory.read_write_same _ a b (Memory.ofBytes_wf (a + 1) bs)
    | succ k =>
      rw [Memory.ofBytes, Memory.read_write_other _ _ _ _ (by omega), show a + (k + 1) = a + 1 + k by omega, ih]
      rfl

theorem Source.byte_ofBytes (bs : List Byte) (p k : Nat) : (Source.ofBytes bs p).byte k = bs.getD k Memory.unlisted := by
  simpa [Source.byte, Source.ofBytes] using Memory.read_ofBytes 0 k bs

end Sys2Proof.Machine
end

