-- ==== Sys2Proof/Laws/PerInstr.lean ====
section
/-! SUPPORT. Per instruction: the two fields of its encoding (spec 30_encoding R60, R61). -/

namespace Sys2Proof.Laws.Fields

/-- The word of an instruction carries its opcode in bits 15:8 and its operand in bits 7:0. -/
def Statement (i : Instr) : Prop := opField (encode i) = opcodeOf i ∧ nField (encode i) = operandOf i

/-- The two bytes of a command word come apart again. -/
theorem fields_append (a b : BitVec 8) : opField (a ++ b) = a ∧ nField (a ++ b) = b := by
  unfold opField nField
  constructor
  · ext j hj
    rw [BitVec.getElem_extractLsb']
    refine (BitVec.getLsbD_append (x := a) (y := b)).trans ?_
    simp [BitVec.getLsbD_eq_getElem hj]
  · ext j hj
    rw [BitVec.getElem_extractLsb']
    refine (BitVec.getLsbD_append (x := a) (y := b)).trans ?_
    simp [hj]

theorem of_append (i : Instr) : Statement i := fields_append _ _

theorem reset : Statement .reset := of_append _
theorem peek : Statement .peek := of_append _
theorem rdbits (n : BitVec 8) : Statement (.rdbits n) := of_append _
theorem parse : Statement .parse := of_append _
theorem scan : Statement .scan := of_append _
theorem rdalloc : Statement .rdalloc := of_append _
theorem rdscf : Statement .rdscf := of_append _
theorem rdsmp : Statement .rdsmp := of_append _
theorem decl1 : Statement .decl1 := of_append _

end Sys2Proof.Laws.Fields
end

