-- ==== Sys2Proof/Laws/State.lean ====
section
/-! SUPPORT. Each named update of the state, field by field. -/

namespace Sys2Proof.Machine.State

@[simp] theorem invalidateTables_src (s : State) : (s.invalidateTables).src = s.src := rfl
@[simp] theorem invalidateTables_stream (s : State) : (s.invalidateTables).stream = s.stream := rfl
@[simp] theorem invalidateTables_scanState (s : State) : (s.invalidateTables).scanState = s.scanState := rfl
@[simp] theorem invalidateTables_hdr (s : State) : (s.invalidateTables).hdr = s.hdr := rfl
@[simp] theorem invalidateTables_hv (s : State) : (s.invalidateTables).hv = s.hv := rfl
@[simp] theorem invalidateTables_alloc (s : State) : (s.invalidateTables).alloc = noEntries := rfl
@[simp] theorem invalidateTables_scf (s : State) : (s.invalidateTables).scf = noEntries := rfl
@[simp] theorem invalidateTables_sample (s : State) : (s.invalidateTables).sample = noEntries := rfl
@[simp] theorem invalidateTables_av (s : State) : (s.invalidateTables).av = false := rfl
@[simp] theorem invalidateTables_sv (s : State) : (s.invalidateTables).sv = false := rfl
@[simp] theorem invalidateTables_mv (s : State) : (s.invalidateTables).mv = false := rfl
@[simp] theorem invalidateTables_nch (s : State) : (s.invalidateTables).nch = 0 := rfl
@[simp] theorem invalidateTables_wdata (s : State) : (s.invalidateTables).wdata = s.wdata := rfl
@[simp] theorem invalidateTables_rdata (s : State) : (s.invalidateTables).rdata = s.rdata := rfl
@[simp] theorem invalidateTables_code (s : State) : (s.invalidateTables).code = s.code := rfl
@[simp] theorem invalidateTables_err (s : State) : (s.invalidateTables).err = s.err := rfl
@[simp] theorem invalidateTables_dead (s : State) : (s.invalidateTables).dead = s.dead := rfl
@[simp] theorem invalidateTables_host (s : State) : (s.invalidateTables).host = s.host := rfl
@[simp] theorem invalidateTables_lastRead (s : State) : (s.invalidateTables).lastRead = s.lastRead := rfl
@[simp] theorem invalidateTables_draws (s : State) : (s.invalidateTables).draws = s.draws := rfl

@[simp] theorem invalidateScf_src (s : State) : (s.invalidateScf).src = s.src := rfl
@[simp] theorem invalidateScf_stream (s : State) : (s.invalidateScf).stream = s.stream := rfl
@[simp] theorem invalidateScf_scanState (s : State) : (s.invalidateScf).scanState = s.scanState := rfl
@[simp] theorem invalidateScf_hdr (s : State) : (s.invalidateScf).hdr = s.hdr := rfl
@[simp] theorem invalidateScf_hv (s : State) : (s.invalidateScf).hv = s.hv := rfl
@[simp] theorem invalidateScf_alloc (s : State) : (s.invalidateScf).alloc = s.alloc := rfl
@[simp] theorem invalidateScf_scf (s : State) : (s.invalidateScf).scf = noEntries := rfl
@[simp] theorem invalidateScf_sample (s : State) : (s.invalidateScf).sample = noEntries := rfl
@[simp] theorem invalidateScf_av (s : State) : (s.invalidateScf).av = s.av := rfl
@[simp] theorem invalidateScf_sv (s : State) : (s.invalidateScf).sv = false := rfl
@[simp] theorem invalidateScf_mv (s : State) : (s.invalidateScf).mv = false := rfl
@[simp] theorem invalidateScf_nch (s : State) : (s.invalidateScf).nch = s.nch := rfl
@[simp] theorem invalidateScf_wdata (s : State) : (s.invalidateScf).wdata = s.wdata := rfl
@[simp] theorem invalidateScf_rdata (s : State) : (s.invalidateScf).rdata = s.rdata := rfl
@[simp] theorem invalidateScf_code (s : State) : (s.invalidateScf).code = s.code := rfl
@[simp] theorem invalidateScf_err (s : State) : (s.invalidateScf).err = s.err := rfl
@[simp] theorem invalidateScf_dead (s : State) : (s.invalidateScf).dead = s.dead := rfl
@[simp] theorem invalidateScf_host (s : State) : (s.invalidateScf).host = s.host := rfl
@[simp] theorem invalidateScf_lastRead (s : State) : (s.invalidateScf).lastRead = s.lastRead := rfl
@[simp] theorem invalidateScf_draws (s : State) : (s.invalidateScf).draws = s.draws := rfl

@[simp] theorem invalidateSamples_src (s : State) : (s.invalidateSamples).src = s.src := rfl
@[simp] theorem invalidateSamples_stream (s : State) : (s.invalidateSamples).stream = s.stream := rfl
@[simp] theorem invalidateSamples_scanState (s : State) : (s.invalidateSamples).scanState = s.scanState := rfl
@[simp] theorem invalidateSamples_hdr (s : State) : (s.invalidateSamples).hdr = s.hdr := rfl
@[simp] theorem invalidateSamples_hv (s : State) : (s.invalidateSamples).hv = s.hv := rfl
@[simp] theorem invalidateSamples_alloc (s : State) : (s.invalidateSamples).alloc = s.alloc := rfl
@[simp] theorem invalidateSamples_scf (s : State) : (s.invalidateSamples).scf = s.scf := rfl
@[simp] theorem invalidateSamples_sample (s : State) : (s.invalidateSamples).sample = noEntries := rfl
@[simp] theorem invalidateSamples_av (s : State) : (s.invalidateSamples).av = s.av := rfl
@[simp] theorem invalidateSamples_sv (s : State) : (s.invalidateSamples).sv = s.sv := rfl
@[simp] theorem invalidateSamples_mv (s : State) : (s.invalidateSamples).mv = false := rfl
@[simp] theorem invalidateSamples_nch (s : State) : (s.invalidateSamples).nch = s.nch := rfl
@[simp] theorem invalidateSamples_wdata (s : State) : (s.invalidateSamples).wdata = s.wdata := rfl
@[simp] theorem invalidateSamples_rdata (s : State) : (s.invalidateSamples).rdata = s.rdata := rfl
@[simp] theorem invalidateSamples_code (s : State) : (s.invalidateSamples).code = s.code := rfl
@[simp] theorem invalidateSamples_err (s : State) : (s.invalidateSamples).err = s.err := rfl
@[simp] theorem invalidateSamples_dead (s : State) : (s.invalidateSamples).dead = s.dead := rfl
@[simp] theorem invalidateSamples_host (s : State) : (s.invalidateSamples).host = s.host := rfl
@[simp] theorem invalidateSamples_lastRead (s : State) : (s.invalidateSamples).lastRead = s.lastRead := rfl
@[simp] theorem invalidateSamples_draws (s : State) : (s.invalidateSamples).draws = s.draws := rfl

@[simp] theorem complete_src (s : State) (c : Code) : (s.complete c).src = s.src := rfl
@[simp] theorem complete_stream (s : State) (c : Code) : (s.complete c).stream = s.stream := rfl
@[simp] theorem complete_scanState (s : State) (c : Code) : (s.complete c).scanState = s.scanState := rfl
@[simp] theorem complete_hdr (s : State) (c : Code) : (s.complete c).hdr = s.hdr := rfl
@[simp] theorem complete_hv (s : State) (c : Code) : (s.complete c).hv = s.hv := rfl
@[simp] theorem complete_alloc (s : State) (c : Code) : (s.complete c).alloc = s.alloc := rfl
@[simp] theorem complete_scf (s : State) (c : Code) : (s.complete c).scf = s.scf := rfl
@[simp] theorem complete_sample (s : State) (c : Code) : (s.complete c).sample = s.sample := rfl
@[simp] theorem complete_av (s : State) (c : Code) : (s.complete c).av = s.av := rfl
@[simp] theorem complete_sv (s : State) (c : Code) : (s.complete c).sv = s.sv := rfl
@[simp] theorem complete_mv (s : State) (c : Code) : (s.complete c).mv = s.mv := rfl
@[simp] theorem complete_nch (s : State) (c : Code) : (s.complete c).nch = s.nch := rfl
@[simp] theorem complete_wdata (s : State) (c : Code) : (s.complete c).wdata = s.wdata := rfl
@[simp] theorem complete_rdata (s : State) (c : Code) : (s.complete c).rdata = s.rdata := rfl
@[simp] theorem complete_code (s : State) (c : Code) : (s.complete c).code = c := rfl
@[simp] theorem complete_err (s : State) (c : Code) : (s.complete c).err = s.err := rfl
@[simp] theorem complete_dead (s : State) (c : Code) : (s.complete c).dead = s.dead := rfl
@[simp] theorem complete_host (s : State) (c : Code) : (s.complete c).host = s.host := rfl
@[simp] theorem complete_lastRead (s : State) (c : Code) : (s.complete c).lastRead = s.lastRead := rfl
@[simp] theorem complete_draws (s : State) (c : Code) : (s.complete c).draws = s.draws := rfl

@[simp] theorem reject_src (s : State) (c : Code) : (s.reject c).src = s.src := rfl
@[simp] theorem reject_stream (s : State) (c : Code) : (s.reject c).stream = s.stream := rfl
@[simp] theorem reject_scanState (s : State) (c : Code) : (s.reject c).scanState = s.scanState := rfl
@[simp] theorem reject_hdr (s : State) (c : Code) : (s.reject c).hdr = s.hdr := rfl
@[simp] theorem reject_hv (s : State) (c : Code) : (s.reject c).hv = s.hv := rfl
@[simp] theorem reject_alloc (s : State) (c : Code) : (s.reject c).alloc = s.alloc := rfl
@[simp] theorem reject_scf (s : State) (c : Code) : (s.reject c).scf = s.scf := rfl
@[simp] theorem reject_sample (s : State) (c : Code) : (s.reject c).sample = s.sample := rfl
@[simp] theorem reject_av (s : State) (c : Code) : (s.reject c).av = s.av := rfl
@[simp] theorem reject_sv (s : State) (c : Code) : (s.reject c).sv = s.sv := rfl
@[simp] theorem reject_mv (s : State) (c : Code) : (s.reject c).mv = s.mv := rfl
@[simp] theorem reject_nch (s : State) (c : Code) : (s.reject c).nch = s.nch := rfl
@[simp] theorem reject_wdata (s : State) (c : Code) : (s.reject c).wdata = s.wdata := rfl
@[simp] theorem reject_rdata (s : State) (c : Code) : (s.reject c).rdata = s.rdata := rfl
@[simp] theorem reject_code (s : State) (c : Code) : (s.reject c).code = c := rfl
@[simp] theorem reject_err (s : State) (c : Code) : (s.reject c).err = true := rfl
@[simp] theorem reject_dead (s : State) (c : Code) : (s.reject c).dead = s.dead := rfl
@[simp] theorem reject_host (s : State) (c : Code) : (s.reject c).host = s.host := rfl
@[simp] theorem reject_lastRead (s : State) (c : Code) : (s.reject c).lastRead = s.lastRead := rfl
@[simp] theorem reject_draws (s : State) (c : Code) : (s.reject c).draws = s.draws := rfl

@[simp] theorem fatal_src (s : State) (c : Code) : (s.fatal c).src = s.src := rfl
@[simp] theorem fatal_stream (s : State) (c : Code) : (s.fatal c).stream = s.poisonedStream := rfl
@[simp] theorem fatal_scanState (s : State) (c : Code) : (s.fatal c).scanState = s.scanState := rfl
@[simp] theorem fatal_hdr (s : State) (c : Code) : (s.fatal c).hdr = s.hdr := rfl
@[simp] theorem fatal_hv (s : State) (c : Code) : (s.fatal c).hv = s.hv := rfl
@[simp] theorem fatal_alloc (s : State) (c : Code) : (s.fatal c).alloc = noEntries := rfl
@[simp] theorem fatal_scf (s : State) (c : Code) : (s.fatal c).scf = noEntries := rfl
@[simp] theorem fatal_sample (s : State) (c : Code) : (s.fatal c).sample = noEntries := rfl
@[simp] theorem fatal_av (s : State) (c : Code) : (s.fatal c).av = false := rfl
@[simp] theorem fatal_sv (s : State) (c : Code) : (s.fatal c).sv = false := rfl
@[simp] theorem fatal_mv (s : State) (c : Code) : (s.fatal c).mv = false := rfl
@[simp] theorem fatal_nch (s : State) (c : Code) : (s.fatal c).nch = 0 := rfl
@[simp] theorem fatal_wdata (s : State) (c : Code) : (s.fatal c).wdata = s.wdata := rfl
@[simp] theorem fatal_rdata (s : State) (c : Code) : (s.fatal c).rdata = none := rfl
@[simp] theorem fatal_code (s : State) (c : Code) : (s.fatal c).code = c := rfl
@[simp] theorem fatal_err (s : State) (c : Code) : (s.fatal c).err = true := rfl
@[simp] theorem fatal_dead (s : State) (c : Code) : (s.fatal c).dead = true := rfl
@[simp] theorem fatal_host (s : State) (c : Code) : (s.fatal c).host = s.host := rfl
@[simp] theorem fatal_lastRead (s : State) (c : Code) : (s.fatal c).lastRead = s.lastRead := rfl
@[simp] theorem fatal_draws (s : State) (c : Code) : (s.fatal c).draws = s.draws + 1 := rfl

@[simp] theorem reopen_src (s : State) : (s.reopen).src = s.src := rfl
@[simp] theorem reopen_stream (s : State) : (s.reopen).stream = ⟨0, 0, s.src.startPos⟩ := rfl
@[simp] theorem reopen_scanState (s : State) : (s.reopen).scanState = .seeking := rfl
@[simp] theorem reopen_hdr (s : State) : (s.reopen).hdr = none := rfl
@[simp] theorem reopen_hv (s : State) : (s.reopen).hv = false := rfl
@[simp] theorem reopen_alloc (s : State) : (s.reopen).alloc = noEntries := rfl
@[simp] theorem reopen_scf (s : State) : (s.reopen).scf = noEntries := rfl
@[simp] theorem reopen_sample (s : State) : (s.reopen).sample = noEntries := rfl
@[simp] theorem reopen_av (s : State) : (s.reopen).av = false := rfl
@[simp] theorem reopen_sv (s : State) : (s.reopen).sv = false := rfl
@[simp] theorem reopen_mv (s : State) : (s.reopen).mv = false := rfl
@[simp] theorem reopen_nch (s : State) : (s.reopen).nch = 0 := rfl
@[simp] theorem reopen_wdata (s : State) : (s.reopen).wdata = none := rfl
@[simp] theorem reopen_rdata (s : State) : (s.reopen).rdata = none := rfl
@[simp] theorem reopen_code (s : State) : (s.reopen).code = .ok := rfl
@[simp] theorem reopen_err (s : State) : (s.reopen).err = false := rfl
@[simp] theorem reopen_dead (s : State) : (s.reopen).dead = false := rfl
@[simp] theorem reopen_host (s : State) : (s.reopen).host = s.host := rfl
@[simp] theorem reopen_lastRead (s : State) : (s.reopen).lastRead = s.lastRead := rfl
@[simp] theorem reopen_draws (s : State) : (s.reopen).draws = s.draws := rfl

@[simp] theorem queueCommand_src (s : State) (w : CmdWord) : (s.queueCommand w).src = s.src := rfl
@[simp] theorem queueCommand_stream (s : State) (w : CmdWord) : (s.queueCommand w).stream = s.stream := rfl
@[simp] theorem queueCommand_scanState (s : State) (w : CmdWord) : (s.queueCommand w).scanState = s.scanState := rfl
@[simp] theorem queueCommand_hdr (s : State) (w : CmdWord) : (s.queueCommand w).hdr = s.hdr := rfl
@[simp] theorem queueCommand_hv (s : State) (w : CmdWord) : (s.queueCommand w).hv = s.hv := rfl
@[simp] theorem queueCommand_alloc (s : State) (w : CmdWord) : (s.queueCommand w).alloc = s.alloc := rfl
@[simp] theorem queueCommand_scf (s : State) (w : CmdWord) : (s.queueCommand w).scf = s.scf := rfl
@[simp] theorem queueCommand_sample (s : State) (w : CmdWord) : (s.queueCommand w).sample = s.sample := rfl
@[simp] theorem queueCommand_av (s : State) (w : CmdWord) : (s.queueCommand w).av = s.av := rfl
@[simp] theorem queueCommand_sv (s : State) (w : CmdWord) : (s.queueCommand w).sv = s.sv := rfl
@[simp] theorem queueCommand_mv (s : State) (w : CmdWord) : (s.queueCommand w).mv = s.mv := rfl
@[simp] theorem queueCommand_nch (s : State) (w : CmdWord) : (s.queueCommand w).nch = s.nch := rfl
@[simp] theorem queueCommand_wdata (s : State) (w : CmdWord) : (s.queueCommand w).wdata = s.wdata := rfl
@[simp] theorem queueCommand_rdata (s : State) (w : CmdWord) : (s.queueCommand w).rdata = s.rdata := rfl
@[simp] theorem queueCommand_code (s : State) (w : CmdWord) : (s.queueCommand w).code = s.code := rfl
@[simp] theorem queueCommand_err (s : State) (w : CmdWord) : (s.queueCommand w).err = s.err := rfl
@[simp] theorem queueCommand_dead (s : State) (w : CmdWord) : (s.queueCommand w).dead = s.dead := rfl
@[simp] theorem queueCommand_host (s : State) (w : CmdWord) : (s.queueCommand w).host = .write cmdAddr (BitVec.setWidth 32 w) :: s.host := rfl
@[simp] theorem queueCommand_lastRead (s : State) (w : CmdWord) : (s.queueCommand w).lastRead = s.lastRead := rfl
@[simp] theorem queueCommand_draws (s : State) (w : CmdWord) : (s.queueCommand w).draws = s.draws := rfl

@[simp] theorem settle_ok (s t : State) : s.settle (.ok t) = t.complete .ok := rfl
@[simp] theorem settle_error (s : State) (c : Code) : s.settle (.error c) = s.fatal c := rfl

end Sys2Proof.Machine.State
end

