-- ==== Sys2Proof/Tests/Slice0.lean ====
section
/-! SUPPORT. The model's own tests: expected results from spec 95_test_vectors and the examples of the rules, and one
witness for the hypotheses of each statement. -/

open Sys2Proof Sys2Proof.Machine

namespace Sys2Proof.Tests

/-! ## Helpers -/

/-- A unit just reset with this source attached. -/
def started (bs : List Byte) : State := State.reset.attach (Source.ofBytes bs 0)

/-- The state an outcome leaves. -/
def after (r : Result) : Option State :=
  match r with
  | .next t => some t
  | .fault _ => none
  | .refused _ => none

/-- The status word and the cursor an outcome leaves. -/
def statusPos (r : Result) : Option (Word × Nat) := (after r).map fun t => (t.status, t.stream.pos)

/-- A mono or stereo header latched. -/
def withHeader (s : State) (w : Word) : State := { s with hdr := some w, hv := true }

/-- The codes of scenario-sized tables: two codes, then zeros, one channel. -/
def codes (a b : BitVec 4) : Vector (Option (BitVec 4)) 64 :=
  ((noEntries.set 0 (some a)).set 1 (some b)).mapFinIdx fun i v _ => if 2 ≤ i ∧ i < 32 then some 0 else v

/-- A mono frame whose allocation section has been read. -/
def allocated (bs : List Byte) (a b : BitVec 4) : State :=
  { withHeader (started bs) 0xFFFF18C0 with av := true, nch := 1, alloc := codes a b }

/-- Scale-factor code 0 everywhere in channel 0. -/
def zeroScales : Vector (Option (BitVec 6)) 64 :=
  (noEntries : Vector (Option (BitVec 6)) 64).mapFinIdx fun i v _ => if i < 32 then some 0 else v

/-- A mono frame whose two code sections have been read. -/
def scaledFrame (bs : List Byte) (a b : BitVec 4) : State :=
  { allocated bs a b with sv := true, scf := zeroScales }

/-! ## Well-formedness -/

theorem test_wf_rdbits_zero_refused : (Instr.rdbits 0).wellFormed = false := by decide
theorem test_wf_rdbits_33_refused : (Instr.rdbits 33).wellFormed = false := by decide
theorem test_wf_rdbits_32 : (Instr.rdbits 32).wellFormed = true := by decide

/-! ## Decoding, words from 30_encoding R61 -/

theorem test_decode_reset : decode 0b0000000000000000#16 = .ok .reset := by decide
theorem test_decode_peek : decode 0b0000000100000000#16 = .ok .peek := by decide
theorem test_decode_rdbits : decode 0b0000001000001100#16 = .ok (.rdbits 12) := by decide
theorem test_decode_parse : decode 0b0000001100000000#16 = .ok .parse := by decide
theorem test_decode_scan : decode 0b0000010000000000#16 = .ok .scan := by decide
theorem test_decode_rdalloc : decode 0b0000010100000000#16 = .ok .rdalloc := by decide
theorem test_decode_rdscf : decode 0b0000011000000000#16 = .ok .rdscf := by decide
theorem test_decode_rdsmp : decode 0b0000011100000000#16 = .ok .rdsmp := by decide
theorem test_decode_decl1 : decode 0b0000100000000000#16 = .ok .decl1 := by decide
theorem test_decode_operand_not_zero : decode 0x0301#16 = .error .operandNotZero := by decide
theorem test_decode_reserved : decode 0x0900#16 = .error .reservedOpcode := by decide
theorem test_table_word : decodeTableWord 16 0x0220 = some (.rdbits 32) := by decide

/-! ## BitStream: R81, R83, vectors B1, B5, B2, B4 -/

/-- R80: after any history `pos = START_POS` and `STATUS = 0`. -/
theorem test_reset :
    statusPos (exec .reset { started [0x12] with stream := ⟨0, 0, 1⟩, err := true, dead := true, src := ⟨[(0, 0x12)], 1, 1⟩ }) =
      some (0, 1) := by decide

/-- R81's example: `SRC = 12 34 56 78 9A`, `pos = 1`. -/
theorem test_peek :
    (after (exec .peek { started [0x12, 0x34, 0x56, 0x78, 0x9A] with stream := ⟨0, 0, 1⟩ })).map (fun t => (t.rdata, t.stream.pos)) =
      some (some 0x3456789A, 1) := by decide

/-- B5: three bytes left. -/
theorem test_peek_short :
    statusPos (exec .peek { started [0x12, 0x34, 0x56, 0x78, 0x9A] with stream := ⟨0, 0, 2⟩ }) = some (0x0001, 2) := by decide

/-- B1: the widest case of R85. -/
theorem test_rdbits_widest :
    (after (exec (.rdbits 32) { started [0x01, 0x23, 0x45, 0x67, 0x89] with stream := ⟨1, 7, 1⟩ })).map
      (fun t => (t.rdata, t.stream)) = some (some 0x02468ACF, ⟨0b0001001, 7, 5⟩) := by decide

/-- B3: 5 bits cached, no byte left, 6 wanted: fatal. -/
theorem test_rdbits_fatal :
    (after (exec (.rdbits 6) { started [0xA5] with stream := ⟨0b00101, 5, 1⟩ })).map State.status = some 0x0031 := by decide

/-! ## Header: T1, T7 and the header table -/

theorem test_parse_scenario_c :
    (after (exec .parse { started [] with wdata := some 0xFFFF1800 })).map
      (fun t => [t.readWindow 0x018, t.readWindow 0x01C, t.readWindow 0x020, t.readWindow 0x024, t.readWindow 0x014]) =
      some [some 0x80000020, some 0x80007D00, some 0x80000180, some 0x80000030, some 0x0002000F] := by decide

theorem test_parse_no_sync :
    (after (exec .parse { started [] with wdata := some 0xFFDFFFFF })).map (fun t => (t.status, t.hdr)) = some (0, none) := by decide

theorem test_hdrf_all_fields : hdrfWord 0xFFFF1B3F = 0x27E6F ∧ hdrfWord 0xFFFB9064 = 0x09487 := by decide
theorem test_frame_size_floor : frameSize 0xFFFF4000 = some 139 ∧ frameSize 0xFFFF4200 = some 143 := by decide
theorem test_frame_size_extremes : frameSize 0xFFE4EA00 = some 2881 ∧ frameSize 0xFFF21400 = some 24 := by decide
theorem test_reserved_version : (bitrate 0xFFEF1800, samplerate 0xFFEF1800, frameSamples 0xFFEF1800) = (none, none, some 384) := by decide

/-! ## Scanner: scenario D, S3, S7 -/

theorem test_scan_scenario_d :
    (after (exec .scan (started [0x12, 0x34, 0x56, 0xFF, 0xFF, 0x18, 0x00]))).map (fun t => (t.status, t.hdr, t.stream.pos)) =
      some (0x0040, some 0xFFFF1800, 7) := by decide

theorem test_scan_cut_crc : statusPos (exec .scan (started [0xFF, 0x00, 0xFF, 0xE0, 0x00, 0x00])) = some (0x0002, 6) := by decide

/-! ## Decoder: scenario B, R132's example, L3, L6, L7 -/

def scenarioB : List Byte :=
  [0xED, 0x99, 0x88, 0x88, 0x88, 0x88, 0x77, 0x77, 0x66, 0x77, 0x55, 0x66, 0x55, 0x55, 0x55, 0x55,
   0x44, 0x44, 0x44, 0x33, 0x44, 0x22, 0x33, 0x22, 0x22, 0x01, 0x00, 0x00, 0x00, 0x00, 0x00, 0x00]

theorem test_rdalloc_scenario_b :
    (after (exec .rdalloc (withHeader (started scenarioB) 0xFFFF1800))).map
      (fun t => (t.status, [t.alloc[entryIdx 0 0], t.alloc[entryIdx 1 0], t.alloc[entryIdx 0 25], t.alloc[entryIdx 1 25]])) =
      some (0x08C0, [some 0xE, some 0xD, some 0x0, some 0x1]) := by decide +kernel

theorem test_rdscf_example :
    (after (exec .rdscf (allocated [0b00001100, 0b01100000] 2 5))).map
      (fun t => (t.scf[entryIdx 0 0], t.scf[entryIdx 0 1], t.scf[entryIdx 0 2], t.scf[entryIdx 1 0], bitCursor t.stream)) =
      some (some 3, some 6, some 0, none, 12) := by decide +kernel

/-- L6, L7: the 15-bit field is there, or not. -/
theorem test_rdsmp_code_15 :
    (after (exec .rdsmp (scaledFrame [0xFF, 0xF8] 15 0))).map State.status = some 0x0077 ∧
    (after (exec .rdsmp (scaledFrame [0xFF] 15 0))).map State.status = some 0x0071 := by decide +kernel

/-- L3: all codes zero, mono. -/
theorem test_decl1_muted :
    (after (exec .decl1 (withHeader (started (List.replicate 16 0)) 0xFFFF18C0))).map
      (fun t => (t.status, t.stream.pos, t.sample[sampleIdx 0 11 31], t.sample[sampleIdx 1 0 0])) =
      some (0x07C0, 16, some f64Zero, none) := by decide +kernel

/-! ## Binary64: L8 and the candidate values of P2 (tables of R139, R140 as arguments) -/

/-- `8/7`, `1.0`: sample bits of `nb = 2`, `s = 0`. -/
theorem test_scaled_p2 :
    f64Bits (scaled 2 0 ⟨false, 1023, 0x2492492492492⟩ ⟨false, 1023, 0⟩) = some 0xBFE2492492492492 := by decide +kernel

/-- `64/63`, `0.5`: sample bits of `nb = 5`, `s = 21`. -/
theorem test_scaled_p2_rounded :
    f64Bits (scaled 5 21 ⟨false, 1023, 0x0410410410410⟩ ⟨false, 1022, 0⟩) = some 0x3FB4514514514514 := by decide +kernel

theorem test_normalized :
    (normalized 1 1, f64Bits (normalized 5 31), f64Bits (normalized 14 16383)) =
      (f64Zero, some 0x3FDE000000000000, some 0x3FDFFF0000000000) := by decide +kernel

/-! ## Step and the host window -/

/-- B9: an illegal word; B8: bits 31:16 of a command write are ignored (R25). -/
theorem test_step_illegal : (after (step ((started [0x12]).queueCommand 0x0900))).map State.status = some 0x0014 := by decide
theorem test_step_high_half_ignored :
    statusPos (step { started [0x12] with host := [.write 0 0xABCD0208] }) = some (0, 1) := by decide
theorem test_step_from_reset : (after (step (State.reset.withFetchWord 16 0x0400))).map State.status = some 0x0002 := by decide
theorem test_read_clen : (after (step { started [0xA5] with stream := ⟨5, 3, 1⟩, host := [.read 0x030] })).map State.lastRead = some (some 3) := by
  decide

/-! ## Witnesses: states and operands that meet the hypotheses of the statements -/

theorem witness_IllegalWordsRejected :
    ((State.reset.queueCommand 0x0900).host = .write 0 0x00000900 :: [] ∧ (0x00000900#32).extractLsb' 0 16 = 0x0900#16) ∧
    ∃ e, decode 0x0900#16 = .error e := ⟨by decide, .reservedOpcode, by decide⟩
theorem witness_DecodeEncodeAgree : decode 0x02FF#16 = .ok (.rdbits 255) := by decide
theorem witness_StepRunsDecodedCommand :
    (State.reset.queueCommand 0x0100).host = .write 0 0x00000100 :: [] ∧ decode ((0x00000100#32).extractLsb' 0 16) = .ok .peek := by decide
theorem witness_IdleUnitUnchanged : State.reset.host = [] := by decide
theorem witness_EveryResetGivesResetState : ({ State.reset with host := [.resetInput] } : State).host = .resetInput :: [] := by decide
theorem witness_HostAccessEffects :
    ({ State.reset with host := [.read 0x00C] } : State).host = .read 0x00C :: [] ∧
    ({ State.reset with host := [.write 4 7] } : State).host = .write 4 7 :: [] ∧
    (({ State.reset with host := [.write 8 7] } : State).host = .write 8 7 :: [] ∧ (8 : Nat) ≠ 0 ∧ (8 : Nat) ≠ 4) := by decide
theorem witness_WindowReadsShowState :
    (scaledFrame [] 1 0).dead = false ∧ (scaledFrame [] 1 0).hv = true ∧ (scaledFrame [] 1 0).av = true ∧ (scaledFrame [] 1 0).sv = true ∧
    (({ State.reset with mv := true, sample := Vector.replicate 768 (some f64Zero) } : State).mv = true ∧
      (({ State.reset with mv := true, sample := Vector.replicate 768 (some f64Zero) } : State).sample[sampleIdx 1 11 31]).bind f64Bits = some 0) := by
  decide +kernel
theorem witness_HeaderViewRegisters :
    ((withHeader State.reset 0xFFFF1B3F).hv = true ∧ (withHeader State.reset 0xFFFF1B3F).hdr = some 0xFFFF1B3F) ∧
    (withHeader State.reset 0xFFEFFFFF).hv = true ∧ (withHeader State.reset 0xFFEFFFFF).hdr = some 0xFFEFFFFF := by decide
theorem witness_BitCursorLaw :
    (StreamOk (started [0xA5]).src ⟨0b00101, 5, 1⟩ ∧ readBits (started [0xA5]).src 5 ⟨0b00101, 5, 1⟩ = some (5, ⟨0, 0, 1⟩)) ∧
    readBits (started [0xA5]).src 6 ⟨0b00101, 5, 1⟩ = none := by decide
theorem witness_RdbitsReturnsStreamBits :
    (started [1, 2, 3, 4]).dead = false ∧ StreamOk (started [1, 2, 3, 4]).src (started [1, 2, 3, 4]).stream ∧
    bitCursor (started [1, 2, 3, 4]).stream + (32#8).toNat ≤ 8 * (started [1, 2, 3, 4]).src.len := by decide
theorem witness_RdbitsPastEndFatal :
    (started []).dead = false ∧ StreamOk (started []).src (started []).stream ∧
    8 * (started []).src.len < bitCursor (started []).stream + (1#8).toNat := by decide
theorem witness_RdbitsWidthOperand :
    (0x0221#16).extractLsb' 8 8 = 2#8 ∧ (0#8).toNat = 0 ∧ 32 < (33#8).toNat ∧ 1 ≤ (1#8).toNat ∧ (32#8).toNat ≤ 32 := by decide
/-- Vector B4: RDBITS 32 right after a rejected width ends OK. -/
theorem test_rdbits_after_invalid_width :
    (after (exec (.rdbits 32) { started [1, 2, 3, 4] with code := .invalidWidth, err := true })).map State.code = some .ok := by decide
theorem witness_MixedWidthReadsAgree :
    (15#8).toNat = (8#8).toNat + (7#8).toNat ∧ (started [1, 2]).dead = false ∧ StreamOk (started [1, 2]).src (started [1, 2]).stream ∧
    bitCursor (started [1, 2]).stream + (15#8).toNat ≤ 8 * (started [1, 2]).src.len := by decide
theorem witness_PeekOutcomes_ok :
    (started [1, 2, 3, 4]).dead = false ∧ (started [1, 2, 3, 4]).stream.cacheLen = 0#3 ∧
    (started [1, 2, 3, 4]).stream.pos + 4 ≤ (started [1, 2, 3, 4]).src.len := by decide
theorem witness_PeekOutcomes_short :
    (started [1, 2, 3]).dead = false ∧ (started [1, 2, 3]).stream.cacheLen = 0#3 ∧
    (started [1, 2, 3]).src.len < (started [1, 2, 3]).stream.pos + 4 := by decide
theorem witness_PeekOutcomes_rejected :
    (({ started [1] with stream := ⟨1, 7, 1⟩ } : State).dead = false ∧ ({ started [1] with stream := ⟨1, 7, 1⟩ } : State).stream.cacheLen ≠ 0#3) ∧
    ({ started [1] with dead := true } : State).dead = true := by decide
theorem witness_PeekThenReadSameWord :
    (started [1, 2, 3, 4]).dead = false ∧ (started [1, 2, 3, 4]).stream.cacheLen = 0#3 ∧ (started [1, 2, 3, 4]).stream.cache = 0#7 ∧
    (started [1, 2, 3, 4]).stream.pos + 4 ≤ (started [1, 2, 3, 4]).src.len := by decide
theorem witness_PeekIdempotent : ∃ t, exec .peek (started [1, 2, 3, 4]) = .next t := ⟨_, rfl⟩
theorem witness_LeftOverBitsReadOut :
    ({ started [1] with stream := ⟨1, 7, 1⟩ } : State).dead = false ∧ ({ started [1] with stream := ⟨1, 7, 1⟩ } : State).stream.cacheLen ≠ 0#3 := by
  decide
theorem witness_ParseLatchesHeader :
    (({ State.reset with wdata := some 0xFFE00000 } : State).wdata = some 0xFFE00000 ∧ (0xFFE00000#32).extractLsb' 21 11 = 0x7FF#11) ∧
    (({ State.reset with wdata := some 0xFFDFFFFF } : State).wdata = some 0xFFDFFFFF ∧ (0xFFDFFFFF#32).extractLsb' 21 11 ≠ 0x7FF#11) := by
  decide
theorem witness_ParseWithoutOperandEndsOk : State.reset.wdata = none := by decide
theorem witness_FrameSizeFormula :
    bitrate 0xFFFF1800 = some 32 ∧ samplerate 0xFFFF1800 = some 32000 ∧ frameSamples 0xFFFF1800 = some 384 := by decide
theorem witness_FrameSizeBounds : frameSize 0xFFFF1800 = some 48 := by decide
theorem witness_ScannerTransitions_seeking :
    (0 + 4 ≤ (started [0xFF, 0xFF, 0x18, 0]).src.len ∧ isHeader ((started [0xFF, 0xFF, 0x18, 0]).src.peek4 0) = true) ∧
    (isHeader ((started [1, 2, 3, 4]).src.peek4 0) = false ∧ 0 + 1 ≤ (started [1, 2, 3, 4]).src.len) ∧
    ((started []).src.len < 0 + 4 ∧ (started []).src.len < 0 + 1) := by decide
theorem witness_ScannerTransitions_found :
    0 + headerBytes ((started [0xFF, 0xFF, 0x18, 0]).src.peek4 0) ≤ (started [0xFF, 0xFF, 0x18, 0]).src.len ∧
    (started [0xFF, 0xFE, 0x18, 0]).src.len < 0 + headerBytes ((started [0xFF, 0xFE, 0x18, 0]).src.peek4 0) := by decide

/-- The premises the scanner statements share: `q` is the first header at or after the cursor. -/
abbrev FirstHeader (s : State) (q : Nat) : Prop :=
  s.dead = false ∧ s.stream.cacheLen = 0#3 ∧ s.stream.pos ≤ q ∧ q + 4 ≤ s.src.len ∧ isHeader (s.src.peek4 q) = true ∧
    ∀ p, p < q → s.stream.pos ≤ p → isHeader (s.src.peek4 p) = false

theorem witness_ScanTakesFirstHeader :
    FirstHeader (started [0x12, 0x34, 0x56, 0xFF, 0xFF, 0x18, 0x00]) 3 ∧
    3 + (if ((started [0x12, 0x34, 0x56, 0xFF, 0xFF, 0x18, 0x00]).src.peek4 3).getLsbD 16 then 4 else 6) ≤
      (started [0x12, 0x34, 0x56, 0xFF, 0xFF, 0x18, 0x00]).src.len := by decide
theorem witness_ScanStopsAtCutCrc :
    FirstHeader (started [0xFF, 0x00, 0xFF, 0xE0, 0x00, 0x00]) 2 ∧
    ((started [0xFF, 0x00, 0xFF, 0xE0, 0x00, 0x00]).src.peek4 2).getLsbD 16 = false ∧
    (started [0xFF, 0x00, 0xFF, 0xE0, 0x00, 0x00]).src.len < 2 + 6 := by decide
theorem witness_ScanEndsWithoutHeader :
    (started [0xFF, 0xFF, 0x18]).dead = false ∧ (started [0xFF, 0xFF, 0x18]).stream.cacheLen = 0#3 ∧
    (started [0xFF, 0xFF, 0x18]).stream.pos ≤ (started [0xFF, 0xFF, 0x18]).src.len ∧
    ∀ p, p + 4 ≤ (started [0xFF, 0xFF, 0x18]).src.len → isHeader ((started [0xFF, 0xFF, 0x18]).src.peek4 p) = false :=
  ⟨by decide, by decide, by decide, fun p h => absurd h (by change ¬ p + 4 ≤ 3; omega)⟩

theorem witness_CrcBytesNotExamined :
    (FirstHeader (started [0xFF, 0xFE, 0x18, 0, 0xC1, 0xC2]) 0 ∧ 0 + 6 ≤ (started [0xFF, 0xFE, 0x18, 0, 0xC1, 0xC2]).src.len ∧
      ((started [0xFF, 0xFE, 0x18, 0, 0xC1, 0xC2]).src.peek4 0).getLsbD 16 = false) ∧
    (started [0xFF, 0xFE, 0x18, 0, 1, 2]).src.len = (started [0xFF, 0xFE, 0x18, 0, 0xC1, 0xC2]).src.len ∧
    ∀ a, a ≠ 0 + 4 → a ≠ 0 + 5 →
      (started [0xFF, 0xFE, 0x18, 0, 1, 2]).src.byte a = (started [0xFF, 0xFE, 0x18, 0, 0xC1, 0xC2]).src.byte a := by
  refine ⟨by decide, by decide, fun a h4 h5 => ?_⟩
  change (Source.ofBytes _ 0).byte a = (Source.ofBytes _ 0).byte a
  rw [Source.byte_ofBytes, Source.byte_ofBytes]
  match a, h4, h5 with
  | 0, _, _ => rfl
  | 1, _, _ => rfl
  | 2, _, _ => rfl
  | 3, _, _ => rfl
  | n + 6, _, _ => rfl

theorem witness_PayloadFieldOrder : (1 : Fin 3) ≠ 0 ∧ (0 : Fin 2).val < (1 : Fin 3).val := by decide
theorem witness_RdallocStoresCodes :
    (withHeader (started scenarioB) 0xFFFF1800).dead = false ∧ (withHeader (started scenarioB) 0xFFFF1800).hv = true ∧
    (withHeader (started scenarioB) 0xFFFF1800).hdr = some 0xFFFF1800 ∧
    StreamOk (withHeader (started scenarioB) 0xFFFF1800).src (withHeader (started scenarioB) 0xFFFF1800).stream ∧
    (2 : Fin 3) = (if (0xFFFF1800#32).extractLsb' 6 2 = 3#2 then 1 else 2) ∧
    bitCursor (withHeader (started scenarioB) 0xFFFF1800).stream + 128 * (2 : Fin 3).val ≤
      8 * (withHeader (started scenarioB) 0xFFFF1800).src.len := by decide +kernel
theorem witness_RdscfStoresScaleFactors :
    (allocated [0x0C, 0x60] 2 5).dead = false ∧ (allocated [0x0C, 0x60] 2 5).hv = true ∧ (allocated [0x0C, 0x60] 2 5).av = true ∧
    StreamOk (allocated [0x0C, 0x60] 2 5).src (allocated [0x0C, 0x60] 2 5).stream ∧
    bitCursor (allocated [0x0C, 0x60] 2 5).stream + 6 * (allocated [0x0C, 0x60] 2 5).nonzeroCodes ≤
      8 * (allocated [0x0C, 0x60] 2 5).src.len := by decide +kernel
theorem witness_RdsmpStoresSamples :
    (scaledFrame [1, 2, 3] 2 0).dead = false ∧ (scaledFrame [1, 2, 3] 2 0).hv = true ∧ (scaledFrame [1, 2, 3] 2 0).av = true ∧
    (scaledFrame [1, 2, 3] 2 0).sv = true ∧ StreamOk (scaledFrame [1, 2, 3] 2 0).src (scaledFrame [1, 2, 3] 2 0).stream ∧
    (∀ ch sb, ch.val < (scaledFrame [1, 2, 3] 2 0).nch.val → (scaledFrame [1, 2, 3] 2 0).allocCode ch sb ≠ 15#4) ∧
    bitCursor (scaledFrame [1, 2, 3] 2 0).stream + 12 * (scaledFrame [1, 2, 3] 2 0).sumOfCodes ≤
      8 * (scaledFrame [1, 2, 3] 2 0).src.len := by
  refine ⟨by decide +kernel, by decide +kernel, by decide +kernel, by decide +kernel, by decide +kernel, ?_, by decide +kernel⟩
  have h : ∀ sb, (scaledFrame [1, 2, 3] 2 0).allocCode 0 sb ≠ 15#4 := by decide +kernel
  intro ch sb hch
  have : ch = 0 := Fin.ext (by change ch.val < 1 at hch; change ch.val = 0; omega)
  exact this ▸ h sb
theorem witness_CodeFifteenFaults :
    (scaledFrame [0xFF, 0xF8] 15 0).dead = false ∧ (scaledFrame [0xFF, 0xF8] 15 0).hv = true ∧ (scaledFrame [0xFF, 0xF8] 15 0).av = true ∧
    (scaledFrame [0xFF, 0xF8] 15 0).sv = true ∧ StreamOk (scaledFrame [0xFF, 0xF8] 15 0).src (scaledFrame [0xFF, 0xF8] 15 0).stream ∧
    (codeOrder (scaledFrame [0xFF, 0xF8] 15 0).nch = [] ++ (0, 0) :: (codeOrder 1).tail) ∧
    (scaledFrame [0xFF, 0xF8] 15 0).allocCode 0 0 = 15#4 ∧
    bitCursor (scaledFrame [0xFF, 0xF8] 15 0).stream + 0 + 15 ≤ 8 * (scaledFrame [0xFF, 0xF8] 15 0).src.len ∧
    8 * (scaledFrame [0xFF] 15 0).src.len < bitCursor (scaledFrame [0xFF] 15 0).stream + 0 + 15 := by decide +kernel
theorem witness_TruncatedSectionsFatal :
    (StreamOk (withHeader (started [1]) 0xFFFF18C0).src (withHeader (started [1]) 0xFFFF18C0).stream ∧
      (withHeader (started [1]) 0xFFFF18C0).dead = false ∧ (withHeader (started [1]) 0xFFFF18C0).hv = true ∧
      (withHeader (started [1]) 0xFFFF18C0).hdr = some 0xFFFF18C0 ∧
      8 * (withHeader (started [1]) 0xFFFF18C0).src.len <
        bitCursor (withHeader (started [1]) 0xFFFF18C0).stream + 128 * (if (0xFFFF18C0#32).extractLsb' 6 2 = 3#2 then 1 else 2)) ∧
    ((allocated [] 1 0).av = true ∧ 8 * (allocated [] 1 0).src.len < bitCursor (allocated [] 1 0).stream + 6 * (allocated [] 1 0).nonzeroCodes) ∧
    ((scaledFrame [] 1 0).sv = true ∧ 8 * (scaledFrame [] 1 0).src.len < bitCursor (scaledFrame [] 1 0).stream + 12 * (scaledFrame [] 1 0).sumOfCodes) := by
  decide +kernel

/-- A mono frame of zero codes in 16 bytes, and its codes. -/
theorem witness_Decl1DecodesWholePayload :
    let s := withHeader (started (List.replicate 16 0)) 0xFFFF18C0
    s.dead = false ∧ s.hv = true ∧ s.hdr = some 0xFFFF18C0 ∧ StreamOk s.src s.stream ∧
    (1 : Fin 3) = (if (0xFFFF18C0#32).extractLsb' 6 2 = 3#2 then 1 else 2) ∧
    (∀ ch sb, (0 : Nat) = s.src.streamBits (bitCursor s.stream + 4 * ((1 : Fin 3).val * (sb : Fin 32).val + (ch : Fin 2).val)) 4) ∧
    bitCursor s.stream + (128 * 1 + 6 * 0 + 12 * 0) ≤ 8 * s.src.len := by decide +kernel
theorem witness_DequantizerInputExact : 1 ≤ 14 ∧ 14 ≤ 14 ∧ 16383 < 2 ^ 14 := by decide
/-- A number below the bound and one at it. -/
theorem witness_RoundingIsNearest :
    (0 < 3 ∧ ((1 : Nat) : ℚ) / (3 : Nat) * (2 : ℚ) ^ (0 : Int) < (2 ^ 54 - 1) * (2 : ℚ) ^ (970 : Int)) ∧
    0 < 1 ∧ (2 ^ 54 - 1) * (2 : ℚ) ^ (970 : Int) ≤ ((2 ^ 54 - 1 : Nat) : ℚ) / (1 : Nat) * (2 : ℚ) ^ (970 : Int) := by
  refine ⟨⟨by decide, ?_⟩, by decide, le_of_eq (by norm_num)⟩
  have bound : (1 : ℚ) ≤ (2 ^ 54 - 1) * (2 : ℚ) ^ (970 : Int) :=
    one_le_mul_of_one_le_of_one_le (by norm_num) (one_le_zpow₀ (by norm_num) (by norm_num))
  exact lt_of_lt_of_le (by norm_num) bound
/-- IEEE 754: `2^53 + 1` and `2^53 + 3` lie halfway between two numbers; the even one is taken. -/
theorem test_round_ties_to_even :
    roundF64 false (2 ^ 53 + 1) 1 0 = .finite ⟨false, 1076, 0⟩ ∧ roundF64 false (2 ^ 53 + 3) 1 0 = .finite ⟨false, 1076, 2⟩ := by
  decide +kernel
theorem witness_SampleSignFollowsCode :
    ((⟨false, 1023, 0⟩ : FiniteF64).neg = false ∧ (⟨false, 1023, 0⟩ : FiniteF64).expo ≠ 0) ∧ (2#4 ≠ 0#4 ∧ 2#4 ≠ 15#4) ∧ 3 < 2 ^ (2#4).toNat := by
  decide
theorem witness_RejectionsChangeStatusOnly :
    ∃ t, exec .rdalloc State.reset = .next t ∧ t.code = .sequenceError := ⟨_, rfl, rfl⟩
theorem witness_FatalFaultsPoison :
    ∃ t, exec (.rdbits 1) State.reset = .next t ∧ State.reset.dead = false ∧ t.dead = true := ⟨_, rfl, rfl, rfl⟩
theorem witness_DeadUnitRejects :
    ({ State.reset with dead := true } : State).dead = true ∧ Instr.scan ≠ .reset ∧ Instr.scan ≠ .parse ∧ Instr.scan.wellFormed = true := by
  decide
theorem witness_MisuseRejected :
    (State.reset.dead = false ∧ State.reset.hv = false) ∧
    (({ started [1] with stream := ⟨1, 7, 1⟩ } : State).dead = false ∧ ({ started [1] with stream := ⟨1, 7, 1⟩ } : State).stream.cacheLen ≠ 0#3) := by
  decide
theorem witness_PeekFrame : ∃ t, exec .peek (started [1, 2, 3, 4]) = .next t := ⟨_, rfl⟩
theorem witness_RdbitsFrame :
    (∃ t, exec (.rdbits 8) (started [1]) = .next t ∧ t.dead = (started [1]).dead) ∧
    ∃ t, exec (.rdbits 8) (started []) = .next t ∧ t.dead ≠ (started []).dead := ⟨⟨_, rfl, rfl⟩, _, rfl, by decide⟩
theorem witness_ParseFrame : ∃ t, exec .parse { State.reset with wdata := some 1 } = .next t := ⟨_, rfl⟩
theorem witness_ScanFrame : ∃ t, exec .scan (started [1, 2, 3, 4]) = .next t := ⟨_, rfl⟩
theorem witness_AllocatingCommandsFrame :
    (∃ t, exec .rdalloc State.reset = .next t ∧ t.dead = State.reset.dead) ∧
    ∃ t, exec .decl1 (withHeader State.reset 0xFFFF18C0) = .next t ∧ t.dead ≠ (withHeader State.reset 0xFFFF18C0).dead :=
  ⟨⟨_, rfl, rfl⟩, _, rfl, by decide +kernel⟩
theorem witness_LaterSectionsFrame :
    (∃ t, exec .rdscf State.reset = .next t ∧ t.dead = State.reset.dead) ∧
    ∃ t, exec .rdsmp (scaledFrame [] 1 0) = .next t ∧ t.dead ≠ (scaledFrame [] 1 0).dead :=
  ⟨⟨_, rfl, rfl⟩, _, rfl, by decide +kernel⟩
theorem witness_SourceNeverChanges : ∃ t, step State.reset = .next t := ⟨_, rfl⟩
theorem witness_StickyFlagsClearedByResetOnly :
    ∃ t, step (({ State.reset with err := true, dead := true } : State).queueCommand 0) = .next t ∧ t.err = false ∧ t.dead = false :=
  ⟨_, rfl, rfl, rfl⟩
/-- The invariants hold in a unit just started on one nonzero byte, and of a queued PEEK. -/
theorem witness_StepKeepsInvariants :
    Inv ((started [0xA5]).queueCommand 0x0100) ∧ ∃ t, step ((started [0xA5]).queueCommand 0x0100) = .next t := by
  refine ⟨?_, _, rfl⟩
  constructor <;> simp [State.queueCommand, started, State.attach, State.reopen, State.reset, State.invalidateTables, noEntries] <;> decide

/-- A mono frame of one 1-bit code, 18 bytes and 2 bits long, in 19 bytes: the invariants hold before DECL1, which ends OK
and leaves 6 bits. -/
theorem witness_LeftOverBitsAfterFrame :
    let s := withHeader (started (0x10 :: List.replicate 18 0)) 0xFFFF18C0
    Inv s ∧ s.stream.cacheLen = 0#3 ∧ ∃ t, exec .decl1 s = .next t ∧ t.code = .ok ∧ t.stream.cacheLen = 6#3 := by
  refine ⟨?_, rfl, _, rfl, by decide +kernel, by decide +kernel⟩
  constructor <;> simp [withHeader, started, State.attach, State.reopen, State.reset, State.invalidateTables, noEntries] <;> decide
theorem witness_NormalTablesGiveFiniteSamples :
    ((⟨false, 2046, 0⟩ : FiniteF64).neg = false ∧ (⟨false, 2046, 0⟩ : FiniteF64).expo ≠ 0) ∧ (2#4 ≠ 0#4 ∧ 2#4 ≠ 15#4) ∧ 3 < 2 ^ (2#4).toNat := by
  decide

end Sys2Proof.Tests
end

section
/-! What the bit read and the decoder's loop keep of the stream, and what the loop stores (spec 10_state R31.1 to R31.3,
40_bitstream R84, 43_layer1_decoder R131 to R133). -/

namespace Sys2Proof.Machine

/-! ## The bit read keeps the cache invariant -/

/-- The last byte appended holds the eight low-order bits. -/
theorem appendBytes_bytes_mod (src : Source) (acc pos k m : Nat) (hm : m ≤ 8) :
    appendBytes acc (src.bytes pos (k + 1)) % 2 ^ m = (src.byte (pos + k)).toNat % 2 ^ m := by
  induction k generalizing acc pos with
  | zero =>
    have hdvd : 2 ^ m ∣ acc * 256 := Dvd.dvd.mul_left (pow_dvd_pow 2 hm) acc
    simp [Source.bytes, appendBytes_cons, Nat.add_mod, Nat.mod_eq_zero_of_dvd hdvd]
  | succ k ih =>
    rw [Source.bytes, appendBytes_cons, ih, Nat.add_right_comm, Nat.add_assoc]

/-- The stream that `takeBits` leaves meets R31.1 to R31.3 when fewer than eight bits are left over and they are the
low-order bits of the byte before the cursor. -/
theorem streamOk_takeBits (src : Source) (bits total n pos : Nat) (hrem : total - n < 8) (hpos : pos ≤ src.len)
    (hlow : 0 < total - n → 1 ≤ pos ∧ bits % 2 ^ (total - n) = (src.byte (pos - 1)).toNat % 2 ^ (total - n)) :
    StreamOk src (takeBits bits total n pos).2 := by
  have hlen : (takeBits bits total n pos).2.cacheLen.toNat = total - n := Nat.mod_eq_of_lt hrem
  have hcache : (takeBits bits total n pos).2.cache.toNat = bits % 2 ^ (total - n) := by
    refine Nat.mod_eq_of_lt ((Nat.mod_lt _ (Nat.two_pow_pos _)).trans_le ?_)
    exact Nat.pow_le_pow_right (by omega) (by omega)
  rw [StreamOk, hlen, hcache]
  exact ⟨Nat.mod_lt _ (Nat.two_pow_pos _), hpos, hlow⟩

/-- R31.1 to R31.3 are kept by a bit read. -/
theorem readBits_streamOk (src : Source) (n : Nat) (st : BitStream) (r : Nat) (st' : BitStream)
    (hok : StreamOk src st) (h : readBits src n st = some (r, st')) : StreamOk src st' := by
  obtain ⟨-, hpos, hlow⟩ := hok
  have hheld : st.cacheLen.toNat < 8 := st.cacheLen.isLt
  by_cases hn : n ≤ st.cacheLen.toNat
  · rw [readBits_cached src n st hn, Option.some.injEq] at h
    obtain rfl : _ = st' := congrArg Prod.snd h
    refine streamOk_takeBits _ _ _ _ _ (by omega) hpos fun hrem => ?_
    obtain ⟨hone, hcache⟩ := hlow (by omega)
    refine ⟨hone, ?_⟩
    rw [hcache, Nat.mod_mod_of_dvd _ (pow_dvd_pow 2 (Nat.sub_le _ _))]
  · obtain ⟨k, hk⟩ : ∃ k, (n - st.cacheLen.toNat + 7) / 8 = k + 1 :=
      ⟨(n - st.cacheLen.toNat + 7) / 8 - 1, by omega⟩
    rw [readBits_pulling src n st (by omega), hk] at h
    split at h
    · next havail =>
      rw [Option.some.injEq] at h
      obtain rfl : _ = st' := congrArg Prod.snd h
      refine streamOk_takeBits _ _ _ _ _ (by omega) havail fun _ => ⟨by omega, ?_⟩
      exact appendBytes_bytes_mod src _ _ k _ (by omega)
    · cases h

/-- R31.1 to R31.3 are kept by the read of a field. -/
theorem readField_streamOk (src : Source) (n : Nat) (st : BitStream) (r : Nat) (st' : BitStream)
    (hok : StreamOk src st) (h : readField src n st = some (r, st')) : StreamOk src st' := by
  by_cases hn : n = 0
  · subst hn
    rw [readField_zero, Option.some.injEq] at h
    obtain rfl : st = st' := congrArg Prod.snd h
    exact hok
  · exact readBits_streamOk src n st r st' hok (readField_pos src n st hn ▸ h)

/-! ## The orders and the places of the tables -/

theorem mem_codeOrder (n : Fin 3) (p : Fin 2 × Fin 32) : p ∈ codeOrder n ↔ p.1.val < n.val := by
  simp only [codeOrder, List.mem_flatMap, List.mem_map, List.mem_filter, List.mem_finRange, decide_eq_true_eq, true_and]
  exact ⟨fun ⟨_, _, hlt, hp⟩ => hp ▸ hlt, fun hlt => ⟨p.2, p.1, hlt, rfl⟩⟩

theorem mem_sampleOrder (n : Fin 3) (p : Fin 12 × Fin 2 × Fin 32) : p ∈ sampleOrder n ↔ p.2.1.val < n.val := by
  simp only [sampleOrder, List.mem_flatMap, List.mem_map, List.mem_finRange, mem_codeOrder, true_and]
  exact ⟨fun ⟨_, _, hlt, hp⟩ => hp ▸ hlt, fun hlt => ⟨p.1, p.2, hlt, rfl⟩⟩

theorem entryIdx_injective : Function.Injective fun p : Fin 2 × Fin 32 => entryIdx p.1 p.2 := by
  intro p q h
  have hval : 32 * p.1.val + p.2.val = 32 * q.1.val + q.2.val := congrArg Fin.val h
  exact Prod.ext (by omega) (by omega)

theorem sampleIdx_injective : Function.Injective fun p : Fin 12 × Fin 2 × Fin 32 => sampleIdx p.2.1 p.1 p.2.2 := by
  intro p q h
  have hval : (12 * p.2.1.val + p.1.val) * 32 + p.2.2.val = (12 * q.2.1.val + q.1.val) * 32 + q.2.2.val := congrArg Fin.val h
  exact Prod.ext (by omega) (Prod.ext (by omega) (by omega))

@[simp] theorem noEntries_getElem {α : Type} {n : Nat} (i : Nat) (h : i < n) : (noEntries : Vector (Option α) n)[i] = none := by
  simp [noEntries]

/-! ## What the decoder's loop leaves -/

section ReadEach

variable {ι α : Type} {k : Nat} (src : Source) (width : ι → Nat) (place : ι → Fin k) (entry : ι → Nat → Except Code α)

/-- R31.1 to R31.3 are kept by the loop. -/
theorem readEach_streamOk (is : List ι) (st st' : BitStream) (t t' : Vector (Option α) k) (hok : StreamOk src st)
    (h : readEach src width place entry is st t = .ok (st', t')) : StreamOk src st' := by
  induction is generalizing st t with
  | nil => simp only [readEach_nil, Except.ok.injEq, Prod.mk.injEq] at h; exact h.1 ▸ hok
  | cons i is ih =>
    rcases readEach_cons_cases src width place entry i is st t with ⟨-, e⟩ | ⟨v, st₁, c, -, -, e⟩ | ⟨v, st₁, a, hr, -, e⟩
    · cases e ▸ h
    · cases e ▸ h
    · exact ih st₁ _ (readField_streamOk src _ st v st₁ hok hr) (e ▸ h)

/-- The place of a listed index holds what `entry` made of that index's own field. -/
theorem readEach_stored (hinj : Function.Injective place) (is : List ι) (st st' : BitStream) (t t' : Vector (Option α) k)
    (h : readEach src width place entry is st t = .ok (st', t')) (i : ι) (hi : i ∈ is) :
    ∃ v a st₁ st₂, readField src (width i) st₁ = some (v, st₂) ∧ entry i v = .ok a ∧ t'[place i] = some a := by
  induction is generalizing st t with
  | nil => simp at hi
  | cons x is ih =>
    rcases readEach_cons_cases src width place entry x is st t with ⟨-, e⟩ | ⟨v, st₁, c, -, -, e⟩ | ⟨v, st₁, a, hr, he, e⟩
    · cases e ▸ h
    · cases e ▸ h
    · rw [e] at h
      by_cases hlater : i ∈ is
      · exact ih st₁ _ h hlater
      · obtain rfl : i = x := (List.mem_cons.1 hi).resolve_right hlater
        refine ⟨v, a, st, st₁, hr, he, ?_⟩
        rw [readEach_other src width place entry is st₁ st' _ t' _ h fun y hy hyi => hlater ((hinj hyi : y = i) ▸ hy)]
        exact Vector.getElem_set_self _

/-- The loop on an empty table fills exactly the places of the listed indices. -/
theorem readEach_held (hinj : Function.Injective place) (is : List ι) (st st' : BitStream) (t' : Vector (Option α) k)
    (h : readEach src width place entry is st noEntries = .ok (st', t')) (i : ι) :
    (t'[place i]).isSome = true ↔ i ∈ is := by
  constructor
  · intro hsome
    by_contra hi
    have hkept := readEach_other src width place entry is st st' _ t' (place i) h fun x hx hxi => hi (hinj hxi ▸ hx)
    simp [hkept] at hsome
  · intro hi
    obtain ⟨-, a, -, -, -, -, hstored⟩ := readEach_stored src width place entry hinj is st st' _ t' h i hi
    simp [hstored]

end ReadEach

/-- A code section read into an empty table holds an entry exactly below `nch`. -/
theorem codeSection_held {α : Type} {src : Source} {width : Fin 2 × Fin 32 → Nat}
    {entry : Fin 2 × Fin 32 → Nat → Except Code α} {n : Fin 3} {st st' : BitStream} {tab : Vector (Option α) 64}
    (h : readEach src width (fun p => entryIdx p.1 p.2) entry (codeOrder n) st noEntries = .ok (st', tab))
    (ch : Fin 2) (sb : Fin 32) : (tab[entryIdx ch sb]).isSome = decide (ch.val < n.val) := by
  rw [Bool.eq_iff_iff, decide_eq_true_iff, ← mem_codeOrder n (ch, sb)]
  exact readEach_held src width _ entry entryIdx_injective _ _ _ _ h (ch, sb)

/-- The sample section read into an empty table holds an entry exactly below `nch`. -/
theorem sampleSection_held {α : Type} {src : Source} {width : Fin 12 × Fin 2 × Fin 32 → Nat}
    {entry : Fin 12 × Fin 2 × Fin 32 → Nat → Except Code α} {n : Fin 3} {st st' : BitStream} {tab : Vector (Option α) 768}
    (h : readEach src width (fun p => sampleIdx p.2.1 p.1 p.2.2) entry (sampleOrder n) st noEntries = .ok (st', tab))
    (ch : Fin 2) (gr : Fin 12) (sb : Fin 32) : (tab[sampleIdx ch gr sb]).isSome = decide (ch.val < n.val) := by
  rw [Bool.eq_iff_iff, decide_eq_true_iff, ← mem_sampleOrder n (gr, ch, sb)]
  exact readEach_held src width _ entry sampleIdx_injective _ _ _ _ h (gr, ch, sb)

end Sys2Proof.Machine
end

section
/-! The invariants between commands (spec 10_state R31 with R14, R16 to R19 and 60_exceptions R153): what gives them
from a reset, and that every named update and every command keeps them. -/

namespace Sys2Proof.Machine

variable {s t : State}

/-! ## The reset state -/

/-- The parameters' range of `START_POS` (00_scope R4). -/
theorem Source.startPos_le_of_wf {src : Source} (h : src.wf = true) : src.startPos ≤ src.len := by
  simp only [Source.wf, Bool.and_eq_true, decide_eq_true_eq] at h
  exact h.2

/-- What `reopen` leaves is the table of R30. -/
theorem resetShape_reopen (s : State) : ResetShape s.reopen := by
  constructor <;> simp

theorem resetShape_reset : ResetShape State.reset := by
  constructor <;> simp [State.reset]

/-- A reset state over a source within its ranges meets the invariants. -/
theorem ResetShape.inv (h : ResetShape t) (hsrc : t.src.wf = true) : Inv t := by
  obtain ⟨hlen, hcache⟩ := h.cache_empty
  obtain ⟨hhv, hhdr⟩ := h.no_header
  obtain ⟨hav, hsv, hmv, hnch⟩ := h.no_tables
  obtain ⟨-, -, hdead⟩ := h.status
  have hpos : t.stream.pos ≤ t.src.len := h.cursor ▸ Source.startPos_le_of_wf hsrc
  exact {
    source_wf := hsrc
    stream_ok := fun _ => by simp [StreamOk, hlen, hcache, hpos]
    seeking := h.seeking
    header_held := by simp [hhv, hhdr]
    header_sync := by simp [hhdr]
    samples_after_scf := by simp [hmv]
    scf_after_alloc := by simp [hsv]
    alloc_after_header := by simp [hav]
    channels := by simp [hav]
    channels_none := fun _ => hnch
    alloc_held := fun ch sb => by rw [h.no_alloc, hav]; rfl
    scf_held := fun ch sb => by rw [h.no_scf, hsv]; rfl
    sample_held := fun ch gr sb => by rw [h.no_sample, hmv]; rfl
    muted_scf := fun ch sb _ => by rw [h.no_scf]; rfl
    muted_sample := fun ch gr sb _ => by rw [h.no_sample]; rfl
    dead_is_error := by simp [hdead]
    dead_no_result := by simp [hdead] }

theorem Inv.reopen (h : Inv s) : Inv s.reopen := (resetShape_reopen s).inv h.source_wf

/-! ## Updates of the host's side and of the status -/

theorem Inv.with_host (h : Inv s) (rest : List HostAction) : Inv { s with host := rest } := { h with }

theorem Inv.with_lastRead (h : Inv s) (r : Option Word) : Inv { s with lastRead := r } := { h with }

theorem Inv.with_wdata (h : Inv s) (w : Option Word) : Inv { s with wdata := w } := { h with }

theorem Inv.with_draws (h : Inv s) (n : Nat) : Inv { s with draws := n } := { h with }

theorem Inv.complete (h : Inv s) (c : Code) : Inv (s.complete c) := { h with }

theorem Inv.reject (h : Inv s) (c : Code) : Inv (s.reject c) :=
  { h with dead_is_error := fun hdead => ⟨rfl, (h.dead_is_error hdead).2⟩ }

/-! ## Updates of the header and the tables -/

theorem Inv.invalidateTables (h : Inv s) : Inv s.invalidateTables :=
  { h with
    samples_after_scf := by simp
    scf_after_alloc := by simp
    alloc_after_header := by simp
    channels := by simp
    channels_none := fun _ => rfl
    alloc_held := by simp
    scf_held := by simp
    sample_held := by simp
    muted_scf := by simp
    muted_sample := by simp
    dead_is_error := fun hdead => ⟨(h.dead_is_error hdead).1, rfl, rfl, rfl⟩ }

/-- Another header may stand in `HDR` while there are no tables, if it has the sync pattern. -/
theorem Inv.with_header (h : Inv s) (hav : s.av = false) (o : Option Word) (ho : ∀ w, o = some w → isHeader w = true) :
    Inv { s with hdr := o, hv := o.isSome } :=
  { h with
    header_held := rfl
    header_sync := fun w hw => by simpa [isHeader] using ho w hw
    alloc_after_header := by simp [hav]
    channels := by simp [hav] }

theorem Inv.latch (h : Inv s) (hav : s.av = false) (w : Word) : Inv (s.latch w) := by
  unfold State.latch
  split
  · next hw => exact h.with_header hav (some w) fun v hv => Option.some.inj hv ▸ hw
  · exact h.with_header hav none (by simp)

/-- A fatal fault leaves no tables and no `RDATA`, and its stream state is not spoken of (R153). -/
theorem Inv.fatal (h : Inv s) (c : Code) : Inv (s.fatal c) :=
  { h.invalidateTables with
    stream_ok := by simp
    dead_is_error := fun _ => ⟨rfl, rfl, rfl, rfl⟩
    dead_no_result := fun _ => rfl }

/-! ## Updates of the stream -/

theorem Inv.with_stream (h : Inv s) (st : BitStream) (hst : StreamOk s.src st) : Inv { s with stream := st } :=
  { h with stream_ok := fun _ => hst }

theorem Inv.with_rdata (h : Inv s) (hdead : s.dead = false) (r : Option Word) : Inv { s with rdata := r } :=
  { h with dead_no_result := fun hd => by simp [hdead] at hd }

theorem Inv.peeked (h : Inv s) (hdead : s.dead = false) : Inv s.peeked := by
  rcases s.peeked_cases with ⟨-, e⟩ | ⟨-, e⟩
  · rw [e]; exact (h.with_rdata hdead (some (s.src.peek4 s.stream.pos))).complete .ok
  · rw [e]; exact h.complete .endOfStream

theorem Inv.bitsRead (h : Inv s) (hdead : s.dead = false) (n : Nat) : Inv (s.bitsRead n) := by
  rcases s.bitsRead_cases n with ⟨r, st, hr, e⟩ | ⟨-, e⟩
  · have hst := readBits_streamOk s.src n s.stream r st (h.stream_ok hdead) hr
    rw [e]; exact ((h.with_rdata hdead (some (BitVec.ofNat 32 r))).with_stream st hst).complete .ok
  · rw [e]; exact h.fatal .endOfStream

/-- With no cached bits the cursor may stand anywhere in the source. -/
theorem streamOk_with_pos {src : Source} {st : BitStream} (h : StreamOk src st) (hlen : st.cacheLen = 0) {pos : Nat}
    (hpos : pos ≤ src.len) : StreamOk src { st with pos := pos } := by
  obtain ⟨hcache, -, -⟩ := h
  exact ⟨hcache, hpos, by simp [hlen]⟩

/-- Where a SCAN may end: inside the source, and at a word with the sync pattern if it yields one. -/
def ScanEnd.Sound (len : Nat) : ScanEnd → Prop
  | .header w pos => isHeader w = true ∧ pos ≤ len
  | .exhausted pos => pos ≤ len

/-- The micro-steps keep: the cursor is inside the source, and FRAME_FOUND stands at a header (R121). -/
theorem scanRun_sound (src : Source) (fuel : Nat) (st : ScanState) (pos : Nat) (hpos : pos ≤ src.len)
    (hfound : st = .frameFound → isHeader (src.peek4 pos) = true) : (scanRun src fuel st pos).Sound src.len := by
  induction fuel generalizing st pos with
  | zero => exact hpos
  | succ fuel ih =>
    cases st with
    | seeking =>
      simp only [scanRun, scanMicro, Source.avail, srcSkip, Bool.and_eq_true, decide_eq_true_eq]
      split_ifs with hhead hbyte
      · exact ih _ _ hpos fun _ => hhead.2
      · exact ih _ _ hbyte nofun
      · exact hpos
    | frameFound =>
      simp only [scanRun, scanMicro, Source.avail, srcSkip, decide_eq_true_eq]
      split_ifs with hbytes
      · exact ⟨hfound rfl, hbytes⟩
      · exact Nat.le_refl _

theorem Inv.scanned (h : Inv s) (hdead : s.dead = false) (hlen : s.stream.cacheLen = 0) : Inv s.scanned := by
  obtain ⟨-, hpos, -⟩ := h.stream_ok hdead
  have hsound : (scanFrom s.src s.stream.pos).Sound s.src.len := scanRun_sound _ _ _ _ hpos nofun
  rcases s.scanned_cases with ⟨w, pos, hend, e⟩ | ⟨pos, hend, e⟩
  · rw [hend] at hsound
    have hmoved := h.invalidateTables.with_stream _ (streamOk_with_pos (h.stream_ok hdead) hlen hsound.2)
    rw [e]; exact { hmoved.with_header rfl (some w) (fun v hv => Option.some.inj hv ▸ hsound.1) with seeking := rfl }
  · rw [hend] at hsound
    have hmoved := h.invalidateTables.with_stream _ (streamOk_with_pos (h.stream_ok hdead) hlen hsound)
    rw [e]; exact { hmoved.with_header rfl none (by simp) with seeking := rfl }

/-! ## The decoder's bodies -/

/-- The channel count of the latched header (R31.6). -/
theorem headerChannels_of_hdr {w : Word} (h : s.hdr = some w) :
    s.headerChannels = if w.extractLsb' 6 2 = 3#2 then 1 else 2 := by
  simp [State.headerChannels, State.hdrWord, h, channelsOf, channelMode]

theorem Inv.allocBody (h : Inv s) (hdead : s.dead = false) (hhv : s.hv = true) (ht : s.allocBody = .ok t) : Inv t := by
  obtain ⟨st, tab, hread, rfl⟩ := s.allocBody_ok t ht
  have hst := readEach_streamOk _ _ _ _ _ _ _ _ _ (h.stream_ok hdead) hread
  exact { h.invalidateTables.with_stream st hst with
    scf_after_alloc := fun _ => rfl
    alloc_after_header := fun _ => hhv
    channels := fun _ w hw => headerChannels_of_hdr hw
    channels_none := nofun
    alloc_held := codeSection_held hread
    scf_held := by simp
    sample_held := by simp
    muted_scf := by simp
    muted_sample := by simp
    dead_is_error := by simp [hdead] }

/-- Entries of `ALLOC` are read below `NCH` as they stand. -/
theorem allocCode_of_alloc {ch : Fin 2} {sb : Fin 32} {c : BitVec 4} (h : s.alloc[entryIdx ch sb] = some c) :
    s.allocCode ch sb = c := by
  rw [State.allocCode, h]; rfl

theorem Inv.invalidateScf (h : Inv s) : Inv s.invalidateScf :=
  { h with
    samples_after_scf := by simp
    scf_after_alloc := by simp
    scf_held := by simp
    sample_held := by simp
    muted_scf := by simp
    muted_sample := by simp
    dead_is_error := fun hdead =>
      let ⟨herr, hav, _, _⟩ := h.dead_is_error hdead
      ⟨herr, hav, rfl, rfl⟩ }

theorem Inv.invalidateSamples (h : Inv s) : Inv s.invalidateSamples :=
  { h with
    samples_after_scf := by simp
    sample_held := by simp
    muted_sample := by simp
    dead_is_error := fun hdead =>
      let ⟨herr, hav, hsv, _⟩ := h.dead_is_error hdead
      ⟨herr, hav, hsv, rfl⟩ }

/-- A held entry is listed below `NCH`. -/
theorem Inv.channel_lt (h : Inv s) {ch : Fin 2} {sb : Fin 32} {c : BitVec 4} (hc : s.alloc[entryIdx ch sb] = some c) :
    ch.val < s.nch.val := by
  have hheld := h.alloc_held ch sb
  simp only [hc, Option.isSome_some] at hheld
  simpa using (Bool.and_eq_true_iff.1 hheld.symm).2

theorem Inv.scfBody (h : Inv s) (hdead : s.dead = false) (hav : s.av = true) (ht : s.scfBody = .ok t) : Inv t := by
  obtain ⟨st, tab, hread, rfl⟩ := s.scfBody_ok t ht
  have hst := readEach_streamOk _ _ _ _ _ _ _ _ _ (h.stream_ok hdead) hread
  have hmuted : ∀ ch sb, s.alloc[entryIdx ch sb] = some 0 → tab[entryIdx ch sb] = some 0 := by
    intro ch sb hzero
    obtain ⟨v, a, st₁, st₂, hfield, hentry, hstored⟩ := readEach_stored _ _ _ _ entryIdx_injective _ _ _ _ _ hread (ch, sb)
      ((mem_codeOrder _ _).2 (h.channel_lt hzero))
    rw [State.scfWidth, allocCode_of_alloc hzero, if_pos rfl, readField_zero] at hfield
    cases hfield
    cases hentry
    exact hstored
  exact { h.invalidateScf.with_stream st hst with
    samples_after_scf := fun _ => rfl
    scf_after_alloc := fun _ => hav
    scf_held := codeSection_held hread
    muted_scf := fun ch sb hzero => by rw [hmuted ch sb hzero]; rfl
    dead_is_error := by simp [hdead] }

theorem Inv.samplesBody (h : Inv s) (hdead : s.dead = false) (hsv : s.sv = true) (ht : s.samplesBody = .ok t) : Inv t := by
  obtain ⟨st, tab, hread, rfl⟩ := s.samplesBody_ok t ht
  have hst := readEach_streamOk _ _ _ _ _ _ _ _ _ (h.stream_ok hdead) hread
  have hmuted : ∀ ch gr sb, s.alloc[entryIdx ch sb] = some 0 → tab[sampleIdx ch gr sb] = some f64Zero := by
    intro ch gr sb hzero
    obtain ⟨v, a, st₁, st₂, -, hentry, hstored⟩ := readEach_stored _ _ _ _ sampleIdx_injective _ _ _ _ _ hread (gr, ch, sb)
      ((mem_sampleOrder _ _).2 (h.channel_lt hzero))
    rw [State.sampleEntry, allocCode_of_alloc hzero, sampleOf, if_pos rfl] at hentry
    cases hentry
    exact hstored
  exact { h.invalidateSamples.with_stream st hst with
    samples_after_scf := fun _ => hsv
    sample_held := sampleSection_held hread
    muted_sample := fun ch gr sb hzero => by rw [hmuted ch gr sb hzero]; rfl
    dead_is_error := by simp [hdead] }

theorem Inv.decodeBody (h : Inv s) (hdead : s.dead = false) (hhv : s.hv = true) (ht : s.decodeBody = .ok t) : Inv t := by
  obtain ⟨a, b, ha, hb, ht⟩ := s.decodeBody_ok t ht
  have hinva := h.allocBody hdead hhv ha
  obtain ⟨_, _, -, rfl⟩ := s.allocBody_ok a ha
  have hinvb := hinva.scfBody hdead rfl hb
  obtain ⟨_, _, -, rfl⟩ := State.scfBody_ok _ b hb
  exact hinvb.samplesBody hdead rfl ht

theorem Inv.settle (h : Inv s) {body : Except Code State} (hbody : ∀ t, body = .ok t → Inv t) : Inv (s.settle body) := by
  cases body with
  | ok t => exact (hbody t rfl).complete .ok
  | error c => exact h.fatal c

/-! ## The commands -/

theorem Inv.checkByteLevel (h : Inv s) {run : State} (hrun : s.dead = false → s.stream.cacheLen = 0 → Inv run) :
    Inv (s.checkByteLevel run) := by
  rcases s.checkByteLevel_cases run with ⟨-, e⟩ | ⟨-, -, e⟩ | ⟨hdead, hlen, e⟩
  · rw [e]; exact h.reject _
  · rw [e]; exact h.reject _
  · rw [e]; exact hrun hdead hlen

theorem Inv.checkDecoder (h : Inv s) {ready : Bool} {run : State} (hrun : s.dead = false → ready = true → Inv run) :
    Inv (s.checkDecoder ready run) := by
  rcases s.checkDecoder_cases run ready with ⟨-, e⟩ | ⟨-, -, e⟩ | ⟨hdead, hready, e⟩
  · rw [e]; exact h.reject _
  · rw [e]; exact h.reject _
  · rw [e]; exact hrun hdead hready

/-- Every command keeps the invariants. -/
theorem Inv.exec (h : Inv s) (i : Instr) (ht : exec i s = .next t) : Inv t := by
  cases i with
  | reset => cases ht; exact h.reopen
  | peek => cases ht; exact h.checkByteLevel fun hdead _ => h.peeked hdead
  | rdbits n =>
    cases ht
    split_ifs with hwidth hdead
    · exact h.reject _
    · exact h.reject _
    · exact h.bitsRead (by simpa using hdead) _
  | parse => cases ht; exact ((h.invalidateTables.latch rfl _).with_draws _).complete .ok
  | scan => cases ht; exact h.checkByteLevel h.scanned
  | rdalloc => cases ht; exact h.checkDecoder fun hdead hhv => h.settle fun _ => h.allocBody hdead hhv
  | rdscf =>
    cases ht
    refine h.checkDecoder fun hdead hready => h.settle fun _ => h.scfBody hdead ?_
    exact (Bool.and_eq_true_iff.1 hready).2
  | rdsmp =>
    cases ht
    refine h.checkDecoder fun hdead hready => h.settle fun _ => h.samplesBody hdead ?_
    exact (Bool.and_eq_true_iff.1 hready).2
  | decl1 => cases ht; exact h.checkDecoder fun hdead hhv => h.settle fun _ => h.decodeBody hdead hhv

/-! ## The host's actions -/

theorem Inv.issue (h : Inv s) (w : CmdWord) (ht : issue w s = .next t) : Inv t := by
  unfold Machine.issue at ht
  split at ht
  · next i _ => exact h.exec i ht
  · cases ht; exact h.reject _

theorem Inv.perform (h : Inv s) (a : HostAction) (ht : perform a s = .next t) : Inv t := by
  cases a with
  | write addr data =>
    simp only [Machine.perform, hostWrite] at ht
    split_ifs at ht
    · exact h.issue _ ht
    · cases ht; exact h.with_wdata _
    · cases ht; exact h
  | read addr => cases ht; exact h.with_lastRead _
  | resetInput => cases ht; exact h.reopen

theorem Inv.step (h : Inv s) (ht : step s = .next t) : Inv t := by
  cases hhost : s.host with
  | nil =>
    simp only [Machine.step, nextAction, hhost] at ht
    cases ht
    exact h
  | cons a rest => exact (h.with_host rest).perform a (step_cons s a rest hhost ▸ ht)

/-- Settles O56: each named update of the state keeps the invariants, so each command, host access and reset does. -/
theorem stepKeepsInvariants : Obligations.StepKeepsInvariants := fun _ _ h ht => h.step ht

/-- Settles O57: the power-on state is a reset state over the empty source. -/
theorem invariantsAtReset : Obligations.InvariantsAtReset := resetShape_reset.inv (by decide)

end Sys2Proof.Machine
end

section
/-! The host port: what each host action does (spec 10_state R23, R25, 70_reset R170), and that no command but RESET
takes a sticky flag back (10_state R22, R26). -/

namespace Sys2Proof.Machine

variable {s t : State} {rest : List HostAction}

/-! ## One step per host action -/

theorem step_write_cmd {data : Word} (h : s.host = .write 0 data :: rest) :
    step s = issue (commandOf data) { s with host := rest } :=
  step_cons s _ rest h

theorem step_write_wdata {data : Word} (h : s.host = .write 4 data :: rest) :
    step s = .next { s with host := rest, wdata := some data } :=
  step_cons s _ rest h

theorem step_write_other {a : Nat} {data : Word} (h : s.host = .write a data :: rest) (hcmd : a ≠ 0) (hwdata : a ≠ 4) :
    step s = .next { s with host := rest } :=
  (step_cons s _ rest h).trans ((if_neg hcmd).trans (if_neg hwdata))

/-- What the window shows does not depend on the host's list. -/
theorem step_read {a : Nat} (h : s.host = .read a :: rest) :
    step s = .next { s with host := rest, lastRead := s.readWindow a } :=
  step_cons s _ rest h

theorem step_resetInput (h : s.host = .resetInput :: rest) : step s = .next ({ s with host := rest }).reopen :=
  step_cons s _ rest h

theorem step_idle (h : s.host = []) : step s = .next s := by
  simp only [step, nextAction, h]

theorem issue_of_decode {w : CmdWord} {i : Instr} (h : decode w = .ok i) : issue w s = exec i s := by
  simp only [issue, h]

theorem issue_of_illegal {w : CmdWord} {e : DecodeError} (h : decode w = .error e) :
    issue w s = .next (s.reject .illegalCommand) := by
  simp only [issue, h]

/-- Settles O4: a write to `CMD` issues the word, and a word that decodes runs its command. -/
theorem stepRunsDecodedCommand : Obligations.StepRunsDecodedCommand := fun _ _ _ _ hhost hdecode =>
  (step_write_cmd hhost).trans (issue_of_decode hdecode)

/-- Settles O6: all three resets leave what `reopen` leaves. -/
theorem everyResetGivesResetState : Obligations.EveryResetGivesResetState :=
  ⟨resetShape_reset, fun s => ⟨s.reopen, rfl, resetShape_reopen s, rfl⟩,
    fun _ _ hhost => ⟨_, step_resetInput hhost, resetShape_reopen _, rfl⟩⟩

/-- Settles O8, one lemma per host action. -/
theorem hostAccessEffects : Obligations.HostAccessEffects :=
  ⟨fun _ _ _ => step_read, fun _ _ _ => step_write_wdata, fun _ _ _ _ => step_write_other⟩

/-! ## A decoded word is the encoding of its command -/

theorem decodePlain_ok {i j : Instr} {n : BitVec 8} (h : decodePlain i n = .ok j) : i = j ∧ n = 0 := by
  unfold decodePlain at h
  split at h
  · next hn => exact ⟨Except.ok.inj h, hn⟩
  · cases h

theorem fields_of_decode {w : CmdWord} {i : Instr} (h : decode w = .ok i) :
    opField w = opcodeOf i ∧ nField w = operandOf i := by
  unfold decode at h
  split at h
  case h_3 hop => cases h; exact ⟨BitVec.eq_of_toNat_eq hop, rfl⟩
  case h_10 => cases h
  all_goals
    next hop =>
      obtain ⟨rfl, hn⟩ := decodePlain_ok h
      exact ⟨BitVec.eq_of_toNat_eq hop, hn⟩

theorem encode_of_decode {w : CmdWord} {i : Instr} (h : decode w = .ok i) : encode i = w := by
  obtain ⟨hop, hn⟩ := fields_of_decode h
  rw [encode, ← hop, ← hn]
  exact BitVec.extractLsb'_append_extractLsb'

/-! ## Sticky flags -/

/-- `ERR` and `DEAD` of `s` still stand in `t`. -/
def StickyKept (s t : State) : Prop := (s.err = true → t.err = true) ∧ (s.dead = true → t.dead = true)

theorem StickyKept.of_eq (herr : t.err = s.err) (hdead : t.dead = s.dead) : StickyKept s t :=
  ⟨herr.trans, hdead.trans⟩

theorem stickyKept_reject (s : State) (c : Code) : StickyKept s (s.reject c) := ⟨fun _ => rfl, id⟩

theorem stickyKept_fatal (s : State) (c : Code) : StickyKept s (s.fatal c) := ⟨fun _ => rfl, fun _ => rfl⟩

theorem stickyKept_checkByteLevel {run : State} (hrun : StickyKept s run) : StickyKept s (s.checkByteLevel run) := by
  rcases s.checkByteLevel_cases run with ⟨-, e⟩ | ⟨-, -, e⟩ | ⟨-, -, e⟩
  · rw [e]; exact stickyKept_reject s _
  · rw [e]; exact stickyKept_reject s _
  · rw [e]; exact hrun

theorem stickyKept_checkDecoder {ready : Bool} {run : State} (hrun : StickyKept s run) :
    StickyKept s (s.checkDecoder ready run) := by
  rcases s.checkDecoder_cases run ready with ⟨-, e⟩ | ⟨-, -, e⟩ | ⟨-, -, e⟩
  · rw [e]; exact stickyKept_reject s _
  · rw [e]; exact stickyKept_reject s _
  · rw [e]; exact hrun

theorem stickyKept_peeked (s : State) : StickyKept s s.peeked := by
  rcases s.peeked_cases with ⟨-, e⟩ | ⟨-, e⟩
  · rw [e]; exact .of_eq rfl rfl
  · rw [e]; exact .of_eq rfl rfl

theorem stickyKept_bitsRead (s : State) (n : Nat) : StickyKept s (s.bitsRead n) := by
  rcases s.bitsRead_cases n with ⟨_, _, -, e⟩ | ⟨-, e⟩
  · rw [e]; exact .of_eq rfl rfl
  · rw [e]; exact stickyKept_fatal s _

theorem stickyKept_latch (s : State) (w : Word) : StickyKept s (s.latch w) := by
  unfold State.latch
  split
  · exact .of_eq rfl rfl
  · exact .of_eq rfl rfl

theorem stickyKept_scanned (s : State) : StickyKept s s.scanned := by
  rcases s.scanned_cases with ⟨_, _, -, e⟩ | ⟨_, -, e⟩
  · rw [e]; exact .of_eq rfl rfl
  · rw [e]; exact .of_eq rfl rfl

theorem stickyKept_settle {body : Except Code State} (hbody : ∀ t, body = .ok t → StickyKept s t) :
    StickyKept s (s.settle body) := by
  cases body with
  | ok t => exact hbody t rfl
  | error c => exact stickyKept_fatal s c

theorem stickyKept_allocBody (h : s.allocBody = .ok t) : StickyKept s t := by
  obtain ⟨_, _, -, rfl⟩ := s.allocBody_ok t h
  exact .of_eq rfl rfl

theorem stickyKept_scfBody (h : s.scfBody = .ok t) : StickyKept s t := by
  obtain ⟨_, _, -, rfl⟩ := s.scfBody_ok t h
  exact .of_eq rfl rfl

theorem stickyKept_samplesBody (h : s.samplesBody = .ok t) : StickyKept s t := by
  obtain ⟨_, _, -, rfl⟩ := s.samplesBody_ok t h
  exact .of_eq rfl rfl

theorem StickyKept.trans {u : State} (h : StickyKept s t) (h' : StickyKept t u) : StickyKept s u :=
  ⟨h'.1 ∘ h.1, h'.2 ∘ h.2⟩

theorem stickyKept_decodeBody (h : s.decodeBody = .ok t) : StickyKept s t := by
  obtain ⟨a, b, ha, hb, ht⟩ := s.decodeBody_ok t h
  exact ((stickyKept_allocBody ha).trans (stickyKept_scfBody hb)).trans (stickyKept_samplesBody ht)

/-- No command but RESET takes a sticky flag back. -/
theorem stickyKept_exec {i : Instr} (hi : i ≠ .reset) (h : exec i s = .next t) : StickyKept s t := by
  cases i with
  | reset => exact absurd rfl hi
  | peek => cases h; exact stickyKept_checkByteLevel (stickyKept_peeked s)
  | rdbits n =>
    cases h
    split_ifs with hwidth hdead
    · exact stickyKept_reject s _
    · exact stickyKept_reject s _
    · exact stickyKept_bitsRead s _
  | parse => cases h; exact stickyKept_latch s.invalidateTables _
  | scan => cases h; exact stickyKept_checkByteLevel (stickyKept_scanned s)
  | rdalloc => cases h; exact stickyKept_checkDecoder (stickyKept_settle fun _ => stickyKept_allocBody)
  | rdscf => cases h; exact stickyKept_checkDecoder (stickyKept_settle fun _ => stickyKept_scfBody)
  | rdsmp => cases h; exact stickyKept_checkDecoder (stickyKept_settle fun _ => stickyKept_samplesBody)
  | decl1 => cases h; exact stickyKept_checkDecoder (stickyKept_settle fun _ => stickyKept_decodeBody)

/-- The host's next action resets the unit: the reset input, or the command word 0x0000. -/
def ResetPending (s : State) : Prop :=
  s.host.head? = some .resetInput ∨
    ∃ data : Word, s.host.head? = some (.write 0 data) ∧ data.extractLsb' 0 16 = 0x0000#16

/-- A step that issues a command word keeps the sticky flags, unless the word is RESET's. -/
theorem step_write_cmd_stickyKept {data : Word} (hhost : s.host = .write 0 data :: rest) (h : step s = .next t) :
    StickyKept s t ∨ data.extractLsb' 0 16 = 0x0000#16 := by
  rw [step_write_cmd hhost] at h
  cases hdecode : decode (commandOf data) with
  | error e =>
    rw [issue_of_illegal hdecode] at h
    cases h
    exact .inl (stickyKept_reject { s with host := rest } .illegalCommand)
  | ok i =>
    rw [issue_of_decode hdecode] at h
    by_cases hi : i = .reset
    · subst hi
      exact .inr (encode_of_decode hdecode).symm
    · exact .inl (stickyKept_exec hi h : StickyKept { s with host := rest } t)

theorem step_stickyKept (h : step s = .next t) : StickyKept s t ∨ ResetPending s := by
  cases hhost : s.host with
  | nil => rw [step_idle hhost] at h; cases h; exact .inl (.of_eq rfl rfl)
  | cons a rest =>
    cases a with
    | resetInput => exact .inr (.inl (by rw [hhost]; rfl))
    | read a => rw [step_read hhost] at h; cases h; exact .inl (.of_eq rfl rfl)
    | write a data =>
      by_cases hcmd : a = 0
      · subst hcmd
        refine (step_write_cmd_stickyKept hhost h).imp_right fun hdata => .inr ⟨data, ?_, hdata⟩
        rw [hhost]; rfl
      · by_cases hwdata : a = 4
        · subst hwdata
          rw [step_write_wdata hhost] at h; cases h; exact .inl (.of_eq rfl rfl)
        · rw [step_write_other hhost hcmd hwdata] at h; cases h; exact .inl (.of_eq rfl rfl)

/-- Settles O59: every command but RESET keeps the sticky flags, and only the word 0x0000 decodes to RESET. -/
theorem stickyFlagsClearedByResetOnly : Obligations.StickyFlagsClearedByResetOnly := by
  intro s t h
  rcases step_stickyKept h with ⟨herr, hdead⟩ | hreset
  · exact ⟨fun hs ht => by simp [herr hs] at ht, fun hs ht => by simp [hdead hs] at ht⟩
  · exact ⟨fun _ _ => hreset, fun _ _ => hreset⟩

end Sys2Proof.Machine
end

section
/-! The host window: the fields of `STATUS` (spec 10_state R22), what each address shows (R25), and the registers of the
header view (R15, R25). -/

namespace Sys2Proof.Machine

variable {s : State}

/-! ## STATUS -/

theorem getLsbD_append_of_le {n m i : Nat} {x : BitVec n} {y : BitVec m} (h : m ≤ i) :
    (x ++ y).getLsbD i = x.getLsbD (i - m) := by
  rw [BitVec.getLsbD_append, if_neg (by omega)]

theorem getLsbD_append_of_lt {n m i : Nat} {x : BitVec n} {y : BitVec m} (h : i < m) :
    (x ++ y).getLsbD i = y.getLsbD i := by
  rw [BitVec.getLsbD_append, if_pos h]

theorem getLsbD_append_ofBool {n : Nat} (x : BitVec n) (b : Bool) : (x ++ BitVec.ofBool b).getLsbD 0 = b := by
  rw [getLsbD_append_of_lt (by decide)]
  cases b <;> rfl

theorem getLsbD_scanStateBit (st : ScanState) : (scanStateBit st).getLsbD 0 = decide (st = .frameFound) := by
  cases st <;> rfl

theorem toNat_ofNat_nch (n : Fin 3) : (BitVec.ofNat 2 n.val).toNat = n.val :=
  Nat.mod_eq_of_lt (n.isLt.trans (by decide))

/-- The fields of a word laid out as R22 lays `STATUS` out. -/
theorem statusLayout_fields (zeros : BitVec 19) (ss : BitVec 1) (nch : BitVec 2) (mv sv av hv dead err : Bool) (code : BitVec 4) :
    let w := zeros ++ ss ++ nch ++ BitVec.ofBool mv ++ BitVec.ofBool sv ++ BitVec.ofBool av ++ BitVec.ofBool hv
      ++ BitVec.ofBool dead ++ BitVec.ofBool err ++ code
    w.extractLsb' 0 4 = code ∧ w.getLsbD 4 = err ∧ w.getLsbD 5 = dead ∧ w.getLsbD 6 = hv ∧ w.getLsbD 7 = av ∧
      w.getLsbD 8 = sv ∧ w.getLsbD 9 = mv ∧ w.extractLsb' 10 2 = nch ∧ w.getLsbD 12 = ss.getLsbD 0 ∧
      w.extractLsb' 13 19 = zeros := by
  refine ⟨?code, ?err, ?dead, ?hv, ?av, ?sv, ?mv, ?nch, ?ss, ?zeros⟩
  all_goals
    repeat rw [BitVec.extractLsb'_append_eq_of_le (by decide)]
    repeat rw [getLsbD_append_of_le (by decide)]
  case code | nch => exact BitVec.extractLsb'_append_eq_right
  case ss => exact getLsbD_append_of_lt (by decide)
  case zeros => exact BitVec.extractLsb'_eq_self
  all_goals exact getLsbD_append_ofBool _ _

/-- Settles O9: `State.status` is laid out as R22 says, with these contents of the fields. -/
theorem statusFields : Obligations.StatusFields := by
  refine ⟨fun s => ?_, rfl, rfl, rfl, rfl, rfl, rfl, rfl, rfl, rfl⟩
  obtain ⟨hcode, herr, hdead, hhv, hav, hsv, hmv, hnch, hss, hzeros⟩ := statusLayout_fields 0#19 (scanStateBit s.scanState)
    (BitVec.ofNat 2 s.nch.val) s.mv s.sv s.av s.hv s.dead s.err (codeBits s.code)
  exact ⟨hcode, herr, hdead, hhv, hav, hsv, hmv, (congrArg BitVec.toNat hnch).trans (toNat_ofNat_nch s.nch),
    hss.trans (getLsbD_scanStateBit s.scanState), hzeros⟩

/-! ## The table windows -/

theorem readWindow_alloc (s : State) (i : Fin 64) : s.readWindow (0x100 + 4 * i.val) = s.readAlloc i := by
  have hidx : (0x100 + 4 * i.val - 0x100) / 4 = i.val := by omega
  simp only [State.readWindow, hidx]
  rw [if_neg (by omega), if_neg (by omega), dif_pos (by omega)]

theorem readWindow_scf (s : State) (i : Fin 64) : s.readWindow (0x200 + 4 * i.val) = s.readScf i := by
  have hidx : (0x200 + 4 * i.val - 0x200) / 4 = i.val := by omega
  simp only [State.readWindow, hidx]
  rw [if_neg (by omega), if_neg (by omega), dif_neg (by omega), dif_pos (by omega)]

theorem readWindow_sample_low (s : State) (i : Fin 768) : s.readWindow (0x1000 + 8 * i.val) = s.readSample i false := by
  have hidx : (0x1000 + 8 * i.val - 0x1000) / 8 = i.val := by omega
  have hhalf : ((0x1000 + 8 * i.val) % 8 == 4) = false := by simp only [beq_eq_false_iff_ne]; omega
  simp only [State.readWindow, hidx, hhalf]
  rw [if_neg (by omega), if_neg (by omega), dif_neg (by omega), dif_neg (by omega), if_neg (by omega), dif_pos (by omega)]

theorem readWindow_sample_high (s : State) (i : Fin 768) : s.readWindow (0x1000 + 8 * i.val + 4) = s.readSample i true := by
  have hidx : (0x1000 + 8 * i.val + 4 - 0x1000) / 8 = i.val := by omega
  have hhalf : ((0x1000 + 8 * i.val + 4) % 8 == 4) = true := by simp only [beq_iff_eq]; omega
  simp only [State.readWindow, hidx, hhalf]
  rw [if_neg (by omega), if_neg (by omega), dif_neg (by omega), dif_neg (by omega), if_neg (by omega), dif_pos (by omega)]

theorem readAlloc_of_av (h : s.av = true) (i : Fin 64) : s.readAlloc i = s.alloc[i].map (BitVec.setWidth 32) := if_pos h

theorem readScf_of_sv (h : s.sv = true) (i : Fin 64) : s.readScf i = s.scf[i].map (BitVec.setWidth 32) := if_pos h

theorem readSample_of_mv (h : s.mv = true) {i : Fin 768} {b : BitVec 64} (hb : s.sample[i].bind f64Bits = some b)
    (high : Bool) : s.readSample i high = some (b.extractLsb' (if high then 32 else 0) 32) := by
  rw [State.readSample, if_pos h, hb]; rfl

/-! ## The registers -/

theorem readWindow_register (s : State) {addr : Nat} (hword : addr % 4 = 0) (haddr : addr < 0x100) :
    s.readWindow addr = s.readRegister addr := by
  rw [State.readWindow, if_neg (by omega), if_pos haddr]

theorem ofStream_of_alive (h : s.dead = false) (view : BitStream → Word) : s.ofStream view = some (view s.stream) := by
  rw [State.ofStream, h]; rfl

theorem header_of_hv (h : s.hv = true) : s.header = s.hdr := if_pos h

/-- Settles O10: the registers by their addresses, the tables by the lemmas of their windows. -/
theorem windowReadsShowState : Obligations.WindowReadsShowState := by
  intro s
  refine ⟨rfl, rfl, rfl, fun hdead => ⟨?_, ?_, ?_, ?_⟩, header_of_hv, fun hav ch sb => ?_, fun hsv ch sb => ?_,
    fun hmv ch gr sb b hb => ⟨?_, ?_⟩⟩
  · exact (readWindow_register s rfl (by decide)).trans (if_neg (by simp [hdead]))
  · exact ofStream_of_alive hdead fun st => BitVec.ofNat 32 st.pos
  · exact ofStream_of_alive hdead fun st => BitVec.setWidth 32 (BitVec.ofNat 28 (st.pos / 2 ^ 32))
  · exact ofStream_of_alive hdead fun st => BitVec.setWidth 32 st.cacheLen
  · exact (readWindow_alloc s (entryIdx ch sb)).trans (readAlloc_of_av hav _)
  · exact (readWindow_scf s (entryIdx ch sb)).trans (readScf_of_sv hsv _)
  · exact (readWindow_sample_low s (sampleIdx ch gr sb)).trans (readSample_of_mv hmv hb false)
  · exact (readWindow_sample_high s (sampleIdx ch gr sb)).trans (readSample_of_mv hmv hb true)

/-! ## The packed header fields -/

theorem layer_eq_layerI_iff (w : Word) : layer w = .layerI ↔ w.extractLsb' 17 2 = 3#2 := by
  unfold layer layerCode
  generalize w.extractLsb' 17 2 = c
  revert c
  decide

theorem slotSize_eq (w : Word) : slotSize w = if w.extractLsb' 17 2 = 3#2 then 4 else 1 := by
  simp only [← layer_eq_layerI_iff, slotSize]
  cases layer w <;> rfl

theorem toNat_ofNat_slotSize (w : Word) :
    (BitVec.ofNat 3 (slotSize w)).toNat = if w.extractLsb' 17 2 = 3#2 then 4 else 1 := by
  rw [slotSize_eq]; split <;> rfl

/-! ## The optional values fit their fields -/

theorem bitrateRow_le (k : VClass) (l : Layer) : ∀ v ∈ bitrateRow k l, v ≤ 448 := by
  cases k <;> cases l <;> decide

theorem samplerateRow_bounds (v : Version) : ∀ r ∈ samplerateRow v, 8000 ≤ r ∧ r ≤ 48000 := by
  cases v <;> decide

theorem frameSamplesEntry_le (l : Layer) (v : Version) : ∀ n ∈ frameSamplesEntry l v, n ≤ 1152 := by
  cases l <;> cases v <;> decide

theorem bitrate_le {w : Word} {v : Nat} (h : bitrate w = some v) : v ≤ 448 := by
  simp only [bitrate] at h
  split_ifs at h
  split at h
  · cases h
  · exact bitrateRow_le _ _ v (List.mem_of_getElem? h)

theorem samplerate_bounds {w : Word} {v : Nat} (h : samplerate w = some v) : 8000 ≤ v ∧ v ≤ 48000 := by
  simp only [samplerate] at h
  split_ifs at h
  exact samplerateRow_bounds _ v (List.mem_of_getElem? h)

theorem frameSamples_le {w : Word} {v : Nat} (h : frameSamples w = some v) : v ≤ 1152 :=
  frameSamplesEntry_le _ _ v h

theorem slotSize_le (w : Word) : slotSize w ≤ 4 := by
  rw [slotSize_eq]; split <;> decide

/-- The quotient of R111 is at most `144 * 448000 / 8000`. -/
theorem frameSize_le {w : Word} {v : Nat} (h : frameSize w = some v) : v ≤ 8068 := by
  unfold frameSize at h
  split at h
  · next br sr fs hbr hsr hfs =>
    obtain ⟨hsr8000, -⟩ := samplerate_bounds hsr
    have hnum : fs / 8 * (br * 1000) ≤ 144 * (448 * 1000) :=
      Nat.mul_le_mul (Nat.div_le_div_right (frameSamples_le hfs)) (Nat.mul_le_mul_right _ (bitrate_le hbr))
    have hquot : fs / 8 * (br * 1000) / sr ≤ 144 * (448 * 1000) / 8000 := Nat.div_le_div hnum hsr8000 (by decide)
    have hpad : (if padding w then slotSize w else 0) ≤ 4 := by
      split
      · exact slotSize_le w
      · exact Nat.zero_le 4
    have hsum := Option.some.inj h
    omega
  · cases h

/-- An optional register whose value fits `k` bits: bit 31, the value, and zeros between. -/
theorem optionalWord_fields (o : Option Nat) (k : Nat) (hk : k ≤ 31) (ho : ∀ v, o = some v → v < 2 ^ k) :
    (optionalWord o).getLsbD 31 = o.isSome ∧ ((optionalWord o).extractLsb' 0 k).toNat = o.getD 0 ∧
      (optionalWord o).extractLsb' k (31 - k) = 0 := by
  cases o with
  | none => simp [optionalWord]
  | some v =>
    have hv := ho v rfl
    have hv31 : v < 2 ^ 31 := hv.trans_le (Nat.pow_le_pow_right (by decide) hk)
    refine ⟨getLsbD_append_of_le (x := 1#1) (y := BitVec.ofNat 31 v) (Nat.le_refl 31), ?_, ?_⟩
    · rw [optionalWord, BitVec.extractLsb'_append_eq_of_add_le (by omega), BitVec.extractLsb'_toNat, BitVec.toNat_ofNat,
        Nat.mod_eq_of_lt hv31]
      exact Nat.mod_eq_of_lt hv
    · rw [optionalWord, BitVec.extractLsb'_append_eq_of_add_le (by omega)]
      refine BitVec.eq_of_toNat_eq ?_
      rw [BitVec.extractLsb'_toNat, BitVec.toNat_ofNat, Nat.mod_eq_of_lt hv31, Nat.shiftRight_eq_div_pow, Nat.div_eq_of_lt hv]
      simp

/-- The fields of a word laid out as R25 lays `HDRF` out. -/
theorem hdrfLayout_fields (zeros : BitVec 14) (slot : BitVec 3) (emph : BitVec 2) (orig copy : Bool) (ext mode : BitVec 2)
    (priv pad crc : Bool) (lay ver : BitVec 2) :
    let f := zeros ++ slot ++ emph ++ BitVec.ofBool orig ++ BitVec.ofBool copy ++ ext ++ mode ++ BitVec.ofBool priv
      ++ BitVec.ofBool pad ++ BitVec.ofBool crc ++ lay ++ ver
    f.extractLsb' 0 2 = ver ∧ f.extractLsb' 2 2 = lay ∧ f.getLsbD 4 = crc ∧ f.getLsbD 5 = pad ∧ f.getLsbD 6 = priv ∧
      f.extractLsb' 7 2 = mode ∧ f.extractLsb' 9 2 = ext ∧ f.getLsbD 11 = copy ∧ f.getLsbD 12 = orig ∧
      f.extractLsb' 13 2 = emph ∧ f.extractLsb' 15 3 = slot ∧ f.extractLsb' 18 14 = zeros := by
  refine ⟨?ver, ?lay, ?crc, ?pad, ?priv, ?mode, ?ext, ?copy, ?orig, ?emph, ?slot, ?zeros⟩
  all_goals
    repeat rw [BitVec.extractLsb'_append_eq_of_le (by decide)]
    repeat rw [getLsbD_append_of_le (by decide)]
  case ver | lay | mode | ext | emph | slot => exact BitVec.extractLsb'_append_eq_right
  case zeros => exact BitVec.extractLsb'_eq_self
  all_goals exact getLsbD_append_ofBool _ _

/-- A register of the header view shows its function of the latched word. -/
theorem header_map_of_hdr {w : Word} (hhv : s.hv = true) (hhdr : s.hdr = some w) (view : Word → Word) :
    s.header.map view = some (view w) := by
  rw [header_of_hv hhv, hhdr]; rfl

/-- Settles O11: the packed word of `hdrfWord`, and four optional values within their fields. -/
theorem headerViewRegisters : Obligations.HeaderViewRegisters := by
  intro s w hhv hhdr
  obtain ⟨hver, hlay, hcrc, hpad, hpriv, hmode, hext, hcopy, horig, hemph, hslot, hzeros⟩ := hdrfLayout_fields 0#14
    (BitVec.ofNat 3 (slotSize w)) (emphasis w) (original w) (copyright w) (channelModeExtension w) (channelMode w)
    (privateBit w) (padding w) (crcPresent w) (layerCode w) (versionCode w)
  refine ⟨⟨hdrfWord w, header_map_of_hdr hhv hhdr hdrfWord, hver, hlay, hcrc, hpad, hpriv, hmode, hext, hcopy, horig, hemph,
      (congrArg BitVec.toNat hslot).trans (toNat_ofNat_slotSize w), hzeros⟩,
    ⟨_, header_map_of_hdr hhv hhdr fun w => optionalWord (bitrate w), optionalWord_fields _ 9 (by decide) fun v hv => ?_⟩,
    ⟨_, header_map_of_hdr hhv hhdr fun w => optionalWord (samplerate w), optionalWord_fields _ 16 (by decide) fun v hv => ?_⟩,
    ⟨_, header_map_of_hdr hhv hhdr fun w => optionalWord (frameSamples w), optionalWord_fields _ 11 (by decide) fun v hv => ?_⟩,
    ⟨_, header_map_of_hdr hhv hhdr fun w => optionalWord (frameSize w), optionalWord_fields _ 13 (by decide) fun v hv => ?_⟩⟩
  · exact (bitrate_le hv).trans_lt (by decide)
  · exact (samplerate_bounds hv).2.trans_lt (by decide)
  · exact (frameSamples_le hv).trans_lt (by decide)
  · exact (frameSize_le hv).trans_lt (by decide)

end Sys2Proof.Machine
end

section
/-! The byte source as the commands see it: a bit read as a function of the bit cursor (spec 20_memory R46, 40_bitstream
R84, R86), PEEK (20_memory R48, R49), and that no step touches the source (R41). -/

namespace Sys2Proof.Machine

variable {s t : State}

/-! ## The bit read as a function of the bit cursor -/

/-- The stream state whose bit cursor is `k`: the byte cursor past the byte that bit `k - 1` lies in, and the bits of
that byte from bit `k` on in the cache. -/
def Source.streamAt (src : Source) (k : Nat) : BitStream :=
  ⟨BitVec.ofNat 7 (src.streamBits k (8 * ((k + 7) / 8) - k)), BitVec.ofNat 3 (8 * ((k + 7) / 8) - k), (k + 7) / 8⟩

@[simp] theorem bitCursor_streamAt (src : Source) (k : Nat) : bitCursor (src.streamAt k) = k := by
  have hlen : (BitVec.ofNat 3 (8 * ((k + 7) / 8) - k)).toNat = 8 * ((k + 7) / 8) - k :=
    Nat.mod_eq_of_lt (show 8 * ((k + 7) / 8) - k < 8 by omega)
  simp only [bitCursor, Source.streamAt, hlen]
  omega

/-- At a byte boundary the cache is empty. -/
theorem Source.streamAt_mul_eight (src : Source) (p : Nat) : src.streamAt (8 * p) = ⟨0, 0, p⟩ := by
  have hpos : (8 * p + 7) / 8 = p := by omega
  rw [Source.streamAt, hpos, Nat.sub_self]
  rfl

/-- R31.3: no more bits are cached than the byte before the cursor holds. -/
theorem StreamOk.bitCursor_add {src : Source} {st : BitStream} (h : StreamOk src st) :
    bitCursor st + st.cacheLen.toNat = 8 * st.pos := by
  obtain ⟨-, -, hlow⟩ := h
  have hlen : st.cacheLen.toNat < 8 := st.cacheLen.isLt
  unfold bitCursor
  omega

/-- R31.1, R31.3: the cache holds the stream bits between the bit cursor and the byte cursor. -/
theorem StreamOk.cache_eq {src : Source} {st : BitStream} (h : StreamOk src st) :
    st.cache.toNat = src.streamBits (bitCursor st) st.cacheLen.toNat := by
  have hcur := h.bitCursor_add
  obtain ⟨hcache, -, hlow⟩ := h
  have hlen : st.cacheLen.toNat < 8 := st.cacheLen.isLt
  by_cases hheld : st.cacheLen.toNat = 0
  · rw [hheld] at hcache ⊢
    simpa [Source.streamBits] using hcache
  · obtain ⟨hpos, hbits⟩ := hlow (by omega)
    rw [hbits, ← Source.streamBits_low _ _ _ hlen.le]
    congr 1
    omega

/-- Of the stream bits from `k` to the byte cursor, `takeBits` yields the first `n` and caches the others. -/
theorem takeBits_streamBits (src : Source) {k total n pos : Nat} (hn : n ≤ total) (hrem : total - n < 8)
    (hk : k + total = 8 * pos) :
    takeBits (src.streamBits k total) total n pos = (src.streamBits k n, src.streamAt (k + n)) := by
  have hsplit : src.streamBits k total = src.streamBits k n * 2 ^ (total - n) + src.streamBits (k + n) (total - n) := by
    rw [← Source.streamBits_add, Nat.add_sub_cancel' hn]
  have hlt := src.streamBits_lt (k + n) (total - n)
  have hdiv : src.streamBits k total / 2 ^ (total - n) = src.streamBits k n := by
    rw [hsplit, Nat.add_comm, Nat.add_mul_div_right _ _ (Nat.two_pow_pos _), Nat.div_eq_of_lt hlt, Nat.zero_add]
  have hmod : src.streamBits k total % 2 ^ (total - n) = src.streamBits (k + n) (total - n) := by
    rw [hsplit, Nat.mul_add_mod_self_right, Nat.mod_eq_of_lt hlt]
  have hpos : (k + n + 7) / 8 = pos := by omega
  have hleft : 8 * pos - (k + n) = total - n := by omega
  rw [takeBits, Source.streamAt, hdiv, hmod, hpos, hleft]

/-- R84, R86, R88: a bit read returns the stream bits at the bit cursor and moves it by `n`, or they are not all there. -/
theorem StreamOk.readBits_eq {src : Source} {st : BitStream} (h : StreamOk src st) (n : Nat) :
    readBits src n st =
      if bitCursor st + n ≤ 8 * src.len then some (src.streamBits (bitCursor st) n, src.streamAt (bitCursor st + n))
      else none := by
  have hcur := h.bitCursor_add
  have hpos : st.pos ≤ src.len := h.2.1
  have hlen : st.cacheLen.toNat < 8 := st.cacheLen.isLt
  rcases Nat.lt_or_ge st.cacheLen.toNat n with hn | hn
  · rw [readBits_pulling src n st hn, h.cache_eq, appendBytes_streamBits, ← hcur, ← Source.streamBits_add]
    refine if_congr (by omega) ?_ rfl
    rw [takeBits_streamBits src (by omega) (by omega) (by omega)]
  · rw [if_pos (by omega), readBits_cached src n st hn, h.cache_eq, takeBits_streamBits src hn (by omega) hcur]

/-! ## RDBITS -/

theorem execRdbits_of_legal {n : BitVec 8} (hlo : 1 ≤ n.toNat) (hhi : n.toNat ≤ 32) (hdead : s.dead = false) :
    exec (.rdbits n) s = .next (s.bitsRead n.toNat) := by
  have hlegal : widthLegal n = true := decide_eq_true ⟨hlo, hhi⟩
  simp [exec, execRdbits, hlegal, hdead]

/-- R83, R86: RDBITS of a legal width with its bits there, with the whole next state. -/
theorem execRdbits_of_enough {n : BitVec 8} (hlo : 1 ≤ n.toNat) (hhi : n.toNat ≤ 32) (hdead : s.dead = false)
    (hok : StreamOk s.src s.stream) (henough : bitCursor s.stream + n.toNat ≤ 8 * s.src.len) :
    exec (.rdbits n) s = .next { s with
      rdata := some (BitVec.ofNat 32 (s.src.streamBits (bitCursor s.stream) n.toNat)),
      stream := s.src.streamAt (bitCursor s.stream + n.toNat), code := .ok } := by
  rw [execRdbits_of_legal hlo hhi hdead, State.bitsRead, hok.readBits_eq, if_pos henough]
  rfl

/-- The low 32 bits of at most 32 stream bits are all of them. -/
theorem toNat_ofNat_streamBits (src : Source) (k : Nat) {n : Nat} (hn : n ≤ 32) :
    (BitVec.ofNat 32 (src.streamBits k n)).toNat = src.streamBits k n :=
  Nat.mod_eq_of_lt ((src.streamBits_lt k n).trans_le (Nat.pow_le_pow_right (by decide) hn))

/-- Settles O16: both ways read the bits from the bit cursor on, and the stream state is a function of where the cursor
ends. -/
theorem mixedWidthReadsAgree : Obligations.MixedWidthReadsAgree := by
  intro s a b c ha hb hc hc32 hdead hok henough
  have hok' : StreamOk s.src (s.src.streamAt (bitCursor s.stream + a.toNat)) :=
    readBits_streamOk s.src a.toNat s.stream _ _ hok ((hok.readBits_eq _).trans (if_pos (by omega)))
  refine ⟨_, _, _, _, _, _, execRdbits_of_enough ha (by omega) hdead hok (by omega),
    execRdbits_of_enough hb (by omega) hdead hok' ?_, execRdbits_of_enough (by omega) hc32 hdead hok henough,
    rfl, rfl, rfl, ?_, ?_⟩
  · show bitCursor (s.src.streamAt _) + b.toNat ≤ 8 * s.src.len
    rw [bitCursor_streamAt]
    omega
  · simp only [bitCursor_streamAt]
    rw [toNat_ofNat_streamBits _ _ hc32, toNat_ofNat_streamBits _ _ (by omega), toNat_ofNat_streamBits _ _ (by omega), hc,
      Source.streamBits_add]
  · simp only [bitCursor_streamAt, hc, Nat.add_assoc]

/-! ## PEEK -/

theorem State.checkByteLevel_of_dead {run : State} (hdead : s.dead = true) : s.checkByteLevel run = s.reject .streamDead :=
  if_pos hdead

theorem State.checkByteLevel_of_held {run : State} (hdead : s.dead = false) (hlen : s.stream.cacheLen ≠ 0) :
    s.checkByteLevel run = s.reject .cacheNotEmpty :=
  (if_neg (by simp [hdead])).trans (if_pos hlen)

theorem State.checkByteLevel_of_ready {run : State} (hdead : s.dead = false) (hlen : s.stream.cacheLen = 0) :
    s.checkByteLevel run = run :=
  (if_neg (by simp [hdead])).trans (if_neg (not_not.2 hlen))

theorem State.peeked_of_avail (h : s.stream.pos + 4 ≤ s.src.len) :
    s.peeked = { s with rdata := some (s.src.peek4 s.stream.pos), code := .ok } :=
  if_pos (decide_eq_true h)

theorem State.peeked_of_short (h : ¬ s.stream.pos + 4 ≤ s.src.len) : s.peeked = { s with code := .endOfStream } :=
  if_neg (by simpa [Source.avail] using h)

@[simp] theorem State.peeked_src (s : State) : s.peeked.src = s.src := by
  rcases s.peeked_cases with ⟨-, e⟩ | ⟨-, e⟩ <;> rw [e]

@[simp] theorem State.peeked_stream (s : State) : s.peeked.stream = s.stream := by
  rcases s.peeked_cases with ⟨-, e⟩ | ⟨-, e⟩ <;> rw [e]

@[simp] theorem State.peeked_dead (s : State) : s.peeked.dead = s.dead := by
  rcases s.peeked_cases with ⟨-, e⟩ | ⟨-, e⟩ <;> rw [e]

@[simp] theorem State.peeked_peeked (s : State) : s.peeked.peeked = s.peeked := by
  rcases s.peeked_cases with ⟨havail, e⟩ | ⟨hshort, e⟩
  · rw [e]; exact State.peeked_of_avail havail
  · rw [e]; exact State.peeked_of_short hshort

/-- Settles O19: a rejected PEEK is rejected again in the same way, and an accepted one peeks at the same cursor. -/
theorem peekIdempotent : Obligations.PeekIdempotent := by
  intro s t h
  cases h
  refine congrArg Host.Outcome.next ?_
  rcases s.checkByteLevel_cases s.peeked with ⟨hdead, e⟩ | ⟨hdead, hlen, e⟩ | ⟨hdead, hlen, e⟩
  · rw [e]; exact State.checkByteLevel_of_dead hdead
  · rw [e]; exact State.checkByteLevel_of_held hdead hlen
  · rw [e, State.checkByteLevel_of_ready (s.peeked_dead.trans hdead) (s.peeked_stream ▸ hlen), s.peeked_peeked]

/-- R44, R46: the word peeked is the next 32 stream bits. -/
theorem Source.peek4_eq (src : Source) (pos : Nat) : src.peek4 pos = BitVec.ofNat 32 (src.streamBits (8 * pos) 32) := by
  rw [Source.peek4, appendBytes_streamBits, Nat.zero_mul, Nat.zero_add]

/-- R81: an accepted PEEK with four bytes left. -/
theorem execPeek_of_avail (hdead : s.dead = false) (hlen : s.stream.cacheLen = 0) (havail : s.stream.pos + 4 ≤ s.src.len) :
    exec .peek s = .next { s with
      rdata := some (BitVec.ofNat 32 (s.src.streamBits (8 * s.stream.pos) 32)), code := .ok } := by
  rw [← Source.peek4_eq, ← State.peeked_of_avail havail]
  exact congrArg Host.Outcome.next (State.checkByteLevel_of_ready hdead hlen)

/-- An empty cache over a cursor inside the source meets R31.1 to R31.3. -/
theorem streamOk_of_empty {src : Source} {st : BitStream} (hlen : st.cacheLen = 0) (hcache : st.cache = 0)
    (hpos : st.pos ≤ src.len) : StreamOk src st :=
  ⟨by simp [hlen, hcache], hpos, by simp [hlen]⟩

theorem bitCursor_of_empty {st : BitStream} (hlen : st.cacheLen = 0) : bitCursor st = 8 * st.pos := by
  simp [bitCursor, hlen]

/-- Settles O18: at a byte boundary the bit cursor is `8 * pos`, so RDBITS 32 reads the bits peeked and ends at the
byte boundary four bytes on. -/
theorem peekThenReadSameWord : Obligations.PeekThenReadSameWord := by
  intro s hdead hlen hcache havail
  have hcur : bitCursor s.stream = 8 * s.stream.pos := bitCursor_of_empty hlen
  have hok : StreamOk s.src s.stream := streamOk_of_empty hlen hcache (by omega)
  have henough : bitCursor s.stream + 32 ≤ 8 * s.src.len := by omega
  have hnext : s.src.streamAt (8 * s.stream.pos + 32) = ⟨0, 0, s.stream.pos + 4⟩ :=
    s.src.streamAt_mul_eight (s.stream.pos + 4)
  refine ⟨_, _, execPeek_of_avail hdead hlen havail, execRdbits_of_enough (by decide) (by decide) hdead hok henough,
    rfl, rfl, ?_, ?_, ?_⟩
  · simp [hcur]
  · simp [hcur, hnext]
  · simp [hcur, hnext]

/-! ## The source -/

theorem State.checkByteLevel_src {run : State} (hrun : run.src = s.src) : (s.checkByteLevel run).src = s.src := by
  rcases s.checkByteLevel_cases run with ⟨-, e⟩ | ⟨-, -, e⟩ | ⟨-, -, e⟩
  · rw [e]; rfl
  · rw [e]; rfl
  · rw [e, hrun]

theorem State.checkDecoder_src {ready : Bool} {run : State} (hrun : run.src = s.src) :
    (s.checkDecoder ready run).src = s.src := by
  rcases s.checkDecoder_cases run ready with ⟨-, e⟩ | ⟨-, -, e⟩ | ⟨-, -, e⟩
  · rw [e]; rfl
  · rw [e]; rfl
  · rw [e, hrun]

theorem State.settle_src {body : Except Code State} (hbody : ∀ t, body = .ok t → t.src = s.src) :
    (s.settle body).src = s.src := by
  cases body with
  | ok t => exact hbody t rfl
  | error c => rfl

@[simp] theorem State.bitsRead_src (s : State) (n : Nat) : (s.bitsRead n).src = s.src := by
  rcases s.bitsRead_cases n with ⟨_, _, -, e⟩ | ⟨-, e⟩
  · rw [e]
  · rw [e, State.fatal_src]

@[simp] theorem State.latch_src (s : State) (w : Word) : (s.latch w).src = s.src := by
  unfold State.latch
  split <;> rfl

@[simp] theorem State.scanned_src (s : State) : s.scanned.src = s.src := by
  rcases s.scanned_cases with ⟨_, _, -, e⟩ | ⟨_, -, e⟩ <;> rw [e, State.invalidateTables_src]

theorem State.allocBody_src (h : s.allocBody = .ok t) : t.src = s.src := by
  obtain ⟨_, _, -, rfl⟩ := s.allocBody_ok t h
  rfl

theorem State.scfBody_src (h : s.scfBody = .ok t) : t.src = s.src := by
  obtain ⟨_, _, -, rfl⟩ := s.scfBody_ok t h
  rfl

theorem State.samplesBody_src (h : s.samplesBody = .ok t) : t.src = s.src := by
  obtain ⟨_, _, -, rfl⟩ := s.samplesBody_ok t h
  rfl

theorem State.decodeBody_src (h : s.decodeBody = .ok t) : t.src = s.src := by
  obtain ⟨a, b, ha, hb, ht⟩ := s.decodeBody_ok t h
  rw [State.samplesBody_src ht, State.scfBody_src hb, State.allocBody_src ha]

/-- R41: no command writes the source. -/
theorem exec_src {i : Instr} (h : exec i s = .next t) : t.src = s.src := by
  cases i with
  | reset => cases h; rfl
  | peek => cases h; exact State.checkByteLevel_src s.peeked_src
  | rdbits n =>
    cases h
    split_ifs with hwidth hdead
    · rfl
    · rfl
    · exact s.bitsRead_src _
  | parse => cases h; exact s.invalidateTables.latch_src _
  | scan => cases h; exact State.checkByteLevel_src s.scanned_src
  | rdalloc => cases h; exact State.checkDecoder_src (State.settle_src fun _ => State.allocBody_src)
  | rdscf => cases h; exact State.checkDecoder_src (State.settle_src fun _ => State.scfBody_src)
  | rdsmp => cases h; exact State.checkDecoder_src (State.settle_src fun _ => State.samplesBody_src)
  | decl1 => cases h; exact State.checkDecoder_src (State.settle_src fun _ => State.decodeBody_src)

theorem issue_src {w : CmdWord} (h : issue w s = .next t) : t.src = s.src := by
  cases hdecode : decode w with
  | ok i => exact exec_src (issue_of_decode hdecode ▸ h)
  | error e => rw [issue_of_illegal hdecode] at h; cases h; rfl

theorem perform_src {a : HostAction} (h : perform a s = .next t) : t.src = s.src := by
  cases a with
  | write addr data =>
    simp only [perform, hostWrite] at h
    split_ifs at h
    · exact issue_src h
    · cases h; rfl
    · cases h; rfl
  | read addr => cases h; rfl
  | resetInput => cases h; rfl

theorem step_src (h : step s = .next t) : t.src = s.src := by
  cases hhost : s.host with
  | nil => rw [step_idle hhost] at h; cases h; rfl
  | cons a rest => rw [step_cons s a rest hhost] at h; exact (perform_src h :)

/-- Settles O58: no host action, and no command it issues, writes the source. -/
theorem sourceNeverChanges : Obligations.SourceNeverChanges :=
  fun _ _ h => ⟨step_src h, fun _ => by rw [step_src h]⟩

end Sys2Proof.Machine
end

section
/-! The command encoding: which words decode and to what (spec 30_encoding R60 to R63), the width operand of RDBITS
(R62), and the order of the payload's fields (R69). -/

namespace Sys2Proof.Machine

variable {s : State}

/-! ## Command words -/

theorem decode_encode (i : Instr) : decode (encode i) = .ok i := by
  obtain ⟨hop, hn⟩ := Laws.Fields.of_append i
  rw [decode, hop, hn]
  cases i <;> rfl

/-- Settles O1: `decode` reads back the two fields of an encoding, and an accepted word is made of its two fields. -/
theorem decodeEncodeAgree : Obligations.DecodeEncodeAgree :=
  ⟨decode_encode, fun _ _ => encode_of_decode⟩

/-- Settles O2: each word of a row is the encoding of its command; the other three are evaluated. -/
theorem opcodeMapWords : Obligations.OpcodeMapWords :=
  ⟨decode_encode .reset, decode_encode .peek, decode_encode (.rdbits 32), decode_encode (.rdbits 255),
    decode_encode .parse, decode_encode .scan, decode_encode .rdalloc, decode_encode .rdscf, decode_encode .rdsmp,
    decode_encode .decl1, by decide, by decide, by decide⟩

theorem decodePlain_error_iff (i : Instr) (n : BitVec 8) : (∃ e, decodePlain i n = .error e) ↔ n ≠ 0#8 := by
  by_cases hn : n = 0#8 <;> simp [decodePlain, hn]

/-- R63: a word is no command because of its opcode, or because of an operand where none is allowed. -/
theorem decode_error_iff (w : CmdWord) :
    (∃ e, decode w = .error e) ↔ 9 ≤ (opField w).toNat ∨ (opField w ≠ 2#8 ∧ nField w ≠ 0#8) := by
  have hrdbits : opField w ≠ 2#8 ↔ (opField w).toNat ≠ 2 := BitVec.toNat_inj.not.symm
  rw [hrdbits]
  unfold decode
  split
  case h_3 hop => simp [hop]
  case h_10 =>
    refine iff_of_true ⟨.reservedOpcode, rfl⟩ (.inl ?_)
    simp only [imp_false] at *
    omega
  all_goals
    next hop => simp [decodePlain_error_iff, hop]

/-- Settles O3: `decode_error_iff` names the words, and `issue` rejects each of them. -/
theorem illegalWordsRejected : Obligations.IllegalWordsRejected := by
  refine fun w => ⟨decode_error_iff w, ?_⟩
  rintro s data rest hhost rfl ⟨e, he⟩
  exact (step_write_cmd hhost).trans (issue_of_illegal he)

/-! ## The width operand of RDBITS -/

theorem decode_of_opField_rdbits {w : CmdWord} (h : opField w = 2#8) : decode w = .ok (.rdbits (nField w)) := by
  rw [decode, h]
  rfl

theorem execRdbits_of_illegal {n : BitVec 8} (h : n.toNat = 0 ∨ 32 < n.toNat) :
    exec (.rdbits n) s = .next (s.reject .invalidWidth) := by
  have hillegal : widthLegal n = false := decide_eq_false (by omega)
  simp [exec, execRdbits, hillegal]

theorem execRdbits_of_dead {n : BitVec 8} (hlo : 1 ≤ n.toNat) (hhi : n.toNat ≤ 32) (hdead : s.dead = true) :
    exec (.rdbits n) s = .next (s.reject .streamDead) := by
  have hlegal : widthLegal n = true := decide_eq_true ⟨hlo, hhi⟩
  simp [exec, execRdbits, hlegal, hdead]

/-- R83: once its checks have passed, RDBITS ends OK or END_OF_STREAM. -/
theorem State.bitsRead_code (s : State) (n : Nat) : (s.bitsRead n).code = .ok ∨ (s.bitsRead n).code = .endOfStream := by
  obtain ⟨_, _, -, h⟩ | ⟨-, h⟩ := s.bitsRead_cases n
  · exact .inl (by rw [h])
  · exact .inr (by rw [h, State.fatal_code])

theorem execRdbits_code_ne_invalidWidth (s : State) {n : BitVec 8} (hlo : 1 ≤ n.toNat) (hhi : n.toNat ≤ 32) :
    ∃ t, exec (.rdbits n) s = .next t ∧ t.code ≠ .invalidWidth := by
  cases hdead : s.dead with
  | true => exact ⟨_, execRdbits_of_dead hlo hhi hdead, by simp⟩
  | false =>
    refine ⟨_, execRdbits_of_legal hlo hhi hdead, ?_⟩
    obtain h | h := s.bitsRead_code n.toNat <;> simp [h]

/-- Settles O15: a width is judged by R62 alone, in every state. -/
theorem rdbitsWidthOperand : Obligations.RdbitsWidthOperand :=
  ⟨fun _ => decode_of_opField_rdbits,
    fun s _ => ⟨execRdbits_of_illegal, execRdbits_code_ne_invalidWidth s⟩⟩

/-! ## The order of the payload's fields -/

section Blocks
variable {α β : Type} {f : α → List β} {m : Nat}

/-- Blocks of one length `m`: their number times `m` entries. -/
theorem length_flatMap_of_length_eq (l : List α) (hlen : ∀ a, (f a).length = m) :
    (l.flatMap f).length = l.length * m := by
  simp [List.length_flatMap, hlen]

/-- Blocks of one length `m`: entry `j` of block `i` stands at `m * i + j`. -/
theorem getElem?_flatMap_of_length_eq {l : List α} {i j : Nat} {a : α} (ha : l[i]? = some a)
    (hlen : ∀ a, (f a).length = m) (hj : j < m) : (l.flatMap f)[m * i + j]? = (f a)[j]? := by
  induction l generalizing i with
  | nil => simp at ha
  | cons b l ih =>
    rw [List.flatMap_cons]
    cases i with
    | zero =>
      obtain rfl : b = a := by simpa using ha
      rw [Nat.mul_zero, Nat.zero_add, List.getElem?_append_left (by rwa [hlen])]
    | succ i =>
      rw [List.getElem?_append_right (by rw [hlen, Nat.mul_succ]; omega), hlen, Nat.mul_succ, Nat.add_right_comm,
        Nat.add_sub_cancel]
      exact ih (by simpa using ha)

end Blocks

/-- The channels below `nch`, in order: the inner loop of `codeOrder`. -/
theorem length_channelsBelow (n : Fin 3) : ((List.finRange 2).filter fun ch => ch.val < n.val).length = n.val := by
  revert n
  decide

theorem getElem?_channelsBelow {n : Fin 3} {ch : Fin 2} (h : ch.val < n.val) :
    ((List.finRange 2).filter fun ch => ch.val < n.val)[ch.val]? = some ch := by
  revert n ch
  decide

theorem length_codeOrder (n : Fin 3) : (codeOrder n).length = 32 * n.val := by
  rw [codeOrder, length_flatMap_of_length_eq _ fun _ => (List.length_map _).trans (length_channelsBelow n),
    List.length_finRange]

theorem getElem?_codeOrder {n : Fin 3} {ch : Fin 2} (sb : Fin 32) (h : ch.val < n.val) :
    (codeOrder n)[n.val * sb.val + ch.val]? = some (ch, sb) := by
  rw [codeOrder, getElem?_flatMap_of_length_eq (a := sb) (by simp)
    (fun _ => (List.length_map _).trans (length_channelsBelow n)) h, List.getElem?_map, getElem?_channelsBelow h]
  rfl

theorem length_sampleOrder (n : Fin 3) : (sampleOrder n).length = 12 * (32 * n.val) := by
  rw [sampleOrder, length_flatMap_of_length_eq _ fun _ => (List.length_map _).trans (length_codeOrder n),
    List.length_finRange]

theorem getElem?_sampleOrder {n : Fin 3} (gr : Fin 12) {ch : Fin 2} (sb : Fin 32) (h : ch.val < n.val) :
    (sampleOrder n)[32 * n.val * gr.val + (n.val * sb.val + ch.val)]? = some (gr, ch, sb) := by
  have hcode := getElem?_codeOrder sb h
  have hplace : n.val * sb.val + ch.val < 32 * n.val :=
    length_codeOrder n ▸ (List.getElem?_eq_some_iff.mp hcode).1
  rw [sampleOrder, getElem?_flatMap_of_length_eq (a := gr) (by simp)
    (fun _ => (List.length_map _).trans (length_codeOrder n)) hplace, List.getElem?_map, hcode]
  rfl

/-- Settles O33: each order is a nest of loops over blocks of one length. -/
theorem payloadFieldOrder : Obligations.PayloadFieldOrder := fun n _ =>
  ⟨length_codeOrder n, length_sampleOrder n, fun gr _ sb h => ⟨getElem?_codeOrder sb h, getElem?_sampleOrder gr sb h⟩⟩

end Sys2Proof.Machine
end

section
/-! The BitStream commands: the bit-cursor law of `ReadBits` (spec 40_bitstream R84, R86, R88), the outcomes and frames
of RDBITS (R83) and PEEK (R81), and the state RESET leaves (R80). -/

namespace Sys2Proof.Machine

variable {s t : State} {src : Source} {st st' : BitStream} {n r : Nat}

/-! ## The bit-cursor law -/

/-- R84: fewer than eight bits are left in the cache, those up to the next byte boundary. -/
@[simp] theorem Source.streamAt_cacheLen_toNat (src : Source) (k : Nat) :
    (src.streamAt k).cacheLen.toNat = 8 * ((k + 7) / 8) - k :=
  Nat.mod_eq_of_lt (show 8 * ((k + 7) / 8) - k < 8 by omega)

/-- R88: the exact condition of END_OF_STREAM. -/
theorem StreamOk.readBits_eq_none_iff (hok : StreamOk src st) :
    readBits src n st = none ↔ 8 * src.len < bitCursor st + n := by
  rw [hok.readBits_eq, ite_eq_right_iff, ← Nat.not_le]
  simp only [reduceCtorEq, imp_false]

theorem StreamOk.readBits_of_enough (hok : StreamOk src st) (henough : bitCursor st + n ≤ 8 * src.len) :
    readBits src n st = some (src.streamBits (bitCursor st) n, src.streamAt (bitCursor st + n)) :=
  (hok.readBits_eq n).trans (if_pos henough)

theorem StreamOk.eq_of_readBits_eq_some (hok : StreamOk src st) (h : readBits src n st = some (r, st')) :
    r = src.streamBits (bitCursor st) n ∧ st' = src.streamAt (bitCursor st + n) := by
  rw [hok.readBits_eq] at h
  split_ifs at h
  cases h
  exact ⟨rfl, rfl⟩

/-- R31.1 to R31.3 hold where a bit read ends. -/
theorem StreamOk.streamAt_add (hok : StreamOk src st) (henough : bitCursor st + n ≤ 8 * src.len) :
    StreamOk src (src.streamAt (bitCursor st + n)) :=
  readBits_streamOk src n st _ _ hok (hok.readBits_of_enough henough)

/-- Settles O12: the stream a bit read leaves is a function of the bit cursor it ends at. -/
theorem bitCursorLaw : Obligations.BitCursorLaw := by
  intro src st n hok _ _
  refine ⟨hok.readBits_eq_none_iff, fun r st' h => ?_⟩
  have hok' : StreamOk src st' := readBits_streamOk src n st r st' hok h
  obtain ⟨rfl, rfl⟩ := hok.eq_of_readBits_eq_some h
  exact ⟨rfl, bitCursor_streamAt src _, rfl, Source.streamAt_cacheLen_toNat src _, hok'⟩

/-! ## RDBITS -/

/-- Settles O13: RDBITS answers what the bit read gives. -/
theorem rdbitsReturnsStreamBits : Obligations.RdbitsReturnsStreamBits :=
  fun _ _ hlo hhi hdead hok henough =>
    ⟨_, execRdbits_of_enough hlo hhi hdead hok henough, rfl, bitCursor_streamAt _ _, hok.streamAt_add henough⟩

/-- R153: `State.fatal` leaves what a fatal fault leaves. -/
theorem fatalOf_fatal (s : State) (c : Code) : FatalOf c s (s.fatal c) := by
  constructor <;> simp

/-- R88: RDBITS of a legal width past the end of the source. -/
theorem execRdbits_of_short {n : BitVec 8} (hlo : 1 ≤ n.toNat) (hhi : n.toNat ≤ 32) (hdead : s.dead = false)
    (hok : StreamOk s.src s.stream) (hshort : 8 * s.src.len < bitCursor s.stream + n.toNat) :
    exec (.rdbits n) s = .next (s.fatal .endOfStream) := by
  rw [execRdbits_of_legal hlo hhi hdead, State.bitsRead, hok.readBits_eq_none_iff.2 hshort]

/-- Settles O14: the bit read fails exactly past the end, and RDBITS makes its failure fatal. -/
theorem rdbitsPastEndFatal : Obligations.RdbitsPastEndFatal :=
  fun s _ hlo hhi hdead hok hshort =>
    ⟨_, execRdbits_of_short hlo hhi hdead hok hshort, fatalOf_fatal s .endOfStream⟩

/-- R83, R155: every way RDBITS can end, its checks in their order. -/
theorem execRdbits_cases {n : BitVec 8} (h : exec (.rdbits n) s = .next t) :
    (widthLegal n = false ∧ t = s.reject .invalidWidth) ∨
    (widthLegal n = true ∧ s.dead = true ∧ t = s.reject .streamDead) ∨
    (widthLegal n = true ∧ s.dead = false ∧ t = s.bitsRead n.toNat) := by
  cases h
  cases hlegal : widthLegal n with
  | false => exact .inl ⟨rfl, rfl⟩
  | true =>
    cases hdead : s.dead with
    | true => exact .inr (.inl ⟨rfl, rfl, rfl⟩)
    | false => exact .inr (.inr ⟨rfl, rfl, rfl⟩)

/-- `t` is `s` but for the stream state, `RDATA`, `CODE` and `ERR`. -/
def SameOutsideRead (s t : State) : Prop :=
  t = { s with rdata := t.rdata, stream := t.stream, code := t.code, err := t.err }

theorem SameOutsideRead.dead_eq (h : SameOutsideRead s t) : t.dead = s.dead := by
  rw [h]

/-- R83, R153: RDBITS keeps everything outside the read, or it dies of END_OF_STREAM. -/
theorem execRdbits_frame {n : BitVec 8} (h : exec (.rdbits n) s = .next t) :
    SameOutsideRead s t ∨ (s.dead = false ∧ t = s.fatal .endOfStream) := by
  obtain ⟨-, rfl⟩ | ⟨-, -, rfl⟩ | ⟨-, hdead, rfl⟩ := execRdbits_cases h
  · exact .inl rfl
  · exact .inl rfl
  · obtain ⟨_, _, -, e⟩ | ⟨-, e⟩ := s.bitsRead_cases n.toNat
    · rw [e]; exact .inl rfl
    · exact .inr ⟨hdead, e⟩

/-- Settles O51: only the fatal fault changes `DEAD`, so `DEAD` tells the two ways apart. -/
theorem rdbitsFrame : Obligations.RdbitsFrame := by
  intro n s t h
  have hsrc : ∀ a, t.src.byte a = s.src.byte a := fun _ => by rw [exec_src h]
  obtain hsame | ⟨halive, rfl⟩ := execRdbits_frame h
  · exact ⟨fun _ => hsame, fun hdead => absurd hsame.dead_eq hdead, hsrc⟩
  · exact ⟨fun hdead => by simp [halive] at hdead, fun _ => fatalOf_fatal s .endOfStream, hsrc⟩

/-! ## RESET -/

/-- Settles O7: `reopen` sets each field to the value of `State.reset` or keeps it. -/
theorem resetCommandState : Obligations.ResetCommandState := fun _ => rfl

/-! ## PEEK -/

/-- R44: the word peeked is the next four bytes, big-endian. -/
theorem Source.peek4_bigEndian (src : Source) (p : Nat) :
    src.peek4 p = BitVec.ofNat 32 ((src.byte p).toNat * 2 ^ 24 + (src.byte (p + 1)).toNat * 2 ^ 16
      + (src.byte (p + 2)).toNat * 2 ^ 8 + (src.byte (p + 3)).toNat) := by
  refine congrArg (BitVec.ofNat 32) ?_
  simp only [Source.bytes, appendBytes_cons, appendBytes_nil]
  ring

theorem execPeek_of_short (hdead : s.dead = false) (hlen : s.stream.cacheLen = 0)
    (hshort : s.src.len < s.stream.pos + 4) : exec .peek s = .next { s with code := .endOfStream } := by
  rw [← State.peeked_of_short (Nat.not_le.2 hshort)]
  exact congrArg Host.Outcome.next (State.checkByteLevel_of_ready hdead hlen)

theorem execPeek_of_held (hdead : s.dead = false) (hlen : s.stream.cacheLen ≠ 0) :
    exec .peek s = .next (s.reject .cacheNotEmpty) :=
  congrArg Host.Outcome.next (State.checkByteLevel_of_held hdead hlen)

theorem execPeek_of_dead (hdead : s.dead = true) : exec .peek s = .next (s.reject .streamDead) :=
  congrArg Host.Outcome.next (State.checkByteLevel_of_dead hdead)

/-- Settles O17, one lemma per outcome. -/
theorem peekOutcomes : Obligations.PeekOutcomes := by
  refine fun s => ⟨fun hdead hlen havail => ?_, execPeek_of_short, execPeek_of_held, execPeek_of_dead⟩
  rw [← Source.peek4_bigEndian, Source.peek4_eq]
  exact execPeek_of_avail hdead hlen havail

/-- Settles O50: each end of PEEK, a rejection or one of the two after its checks, writes no other field. -/
theorem peekFrame : Obligations.PeekFrame := by
  intro s t h
  refine ⟨?_, fun _ => by rw [exec_src h]⟩
  cases h
  obtain ⟨-, e⟩ | ⟨-, -, e⟩ | ⟨-, -, e⟩ := s.checkByteLevel_cases s.peeked
  · rw [e]; rfl
  · rw [e]; rfl
  · rw [e]
    obtain ⟨-, e⟩ | ⟨-, e⟩ := s.peeked_cases
    · rw [e]
    · rw [e]

end Sys2Proof.Machine
end

section
/-! The frame header: which words are headers (spec 41_frame_header R101), what its fields decode to (R102 to R111), the
bounds of the frame size (R113), and what PARSE does (R100). -/

namespace Sys2Proof.Machine

variable {s t : State} {w : Word} {n br sr fs : Nat}

/-! ## Header words -/

theorem isHeader_iff (w : Word) : isHeader w = true ↔ w.extractLsb' 21 11 = 0x7FF#11 := beq_iff_eq

/-- Settles O23: the top 11 bits are the quotient by `2 ^ 21`. -/
theorem headerWordsAreTopRange : Obligations.HeaderWordsAreTopRange := by
  intro w
  have htop : (w.extractLsb' 21 11).toNat = w.toNat / 2 ^ 21 % 2 ^ 11 := by
    rw [BitVec.extractLsb'_toNat, Nat.shiftRight_eq_div_pow]
  have hlt := w.isLt
  rw [isHeader_iff, ← BitVec.toNat_inj, htop]
  change w.toNat / 2 ^ 21 % 2 ^ 11 = 2047 ↔ _
  omega

/-! ## Version, layer, CRC flag and slot size -/

theorem getElem?_version (w : Word) :
    [Version.mpeg25, .reserved, .mpeg2, .mpeg1][(w.extractLsb' 19 2).toNat]? = some (version w) := by
  unfold version versionCode
  generalize w.extractLsb' 19 2 = c
  revert c
  decide

theorem getElem?_layer (w : Word) :
    [Layer.reserved, .layerIII, .layerII, .layerI][(w.extractLsb' 17 2).toNat]? = some (layer w) := by
  unfold layer layerCode
  generalize w.extractLsb' 17 2 = c
  revert c
  decide

theorem version_eq_reserved_iff (w : Word) : version w = .reserved ↔ w.extractLsb' 19 2 = 1#2 := by
  have h := getElem?_version w
  generalize version w = v, w.extractLsb' 19 2 = c at h ⊢
  revert c
  cases v <;> decide

theorem layer_eq_reserved_iff (w : Word) : layer w = .reserved ↔ w.extractLsb' 17 2 = 0#2 := by
  have h := getElem?_layer w
  generalize layer w = l, w.extractLsb' 17 2 = c at h ⊢
  revert c
  cases l <;> decide

theorem crcPresent_eq (w : Word) : crcPresent w = decide (w.extractLsb' 16 1 = 0#1) := by
  have hbit : crcPresent w = !(w.extractLsb' 16 1).getLsbD 0 := by simp [crcPresent]
  rw [hbit]
  generalize w.extractLsb' 16 1 = c
  revert c
  decide

/-- Settles O24, one lemma per decoder. -/
theorem headerFieldDecoders : Obligations.HeaderFieldDecoders := fun w =>
  ⟨getElem?_version w, getElem?_layer w, crcPresent_eq w, slotSize_eq w⟩

/-! ## Bitrate and sample rate -/

theorem vclass_eq_none_iff (v : Version) : vclass v = none ↔ v = .reserved := by
  cases v <;> decide

theorem length_bitrateRow (k : VClass) (l : Layer) : (bitrateRow k l).length = if l = .reserved then 0 else 14 := by
  cases k <;> cases l <;> rfl

theorem length_samplerateRow (v : Version) : (samplerateRow v).length = if v = .reserved then 0 else 3 := by
  cases v <;> rfl

theorem bitrate_of_reserved_code (hcode : w.extractLsb' 12 4 = 0#4 ∨ w.extractLsb' 12 4 = 15#4) : bitrate w = none := by
  unfold bitrate bitrateCode
  obtain h | h := hcode
  · rw [h]; rfl
  · rw [h]; rfl

theorem bitrate_of_code (hcode : ¬ (w.extractLsb' 12 4 = 0#4 ∨ w.extractLsb' 12 4 = 15#4)) :
    bitrate w = (vclass (version w)).bind fun k => (bitrateRow k (layer w))[(w.extractLsb' 12 4).toNat - 1]? := by
  have hnat : ¬ ((bitrateCode w).toNat = 0 ∨ (bitrateCode w).toNat = 15) := by
    simpa [bitrateCode, ← BitVec.toNat_inj] using hcode
  simp only [bitrate, if_neg hnat]
  cases vclass (version w) <;> rfl

theorem bitrate_eq_none_iff (w : Word) :
    bitrate w = none ↔
      w.extractLsb' 12 4 = 0#4 ∨ w.extractLsb' 12 4 = 15#4 ∨ version w = .reserved ∨ layer w = .reserved := by
  rw [← or_assoc]
  by_cases hcode : w.extractLsb' 12 4 = 0#4 ∨ w.extractLsb' 12 4 = 15#4
  · exact iff_of_true (bitrate_of_reserved_code hcode) (.inl hcode)
  rw [or_iff_right hcode, bitrate_of_code hcode, ← vclass_eq_none_iff]
  cases vclass (version w) with
  | none => simp
  | some k =>
    have hlt : (w.extractLsb' 12 4).toNat - 1 < 14 := by
      simp only [← BitVec.toNat_inj, BitVec.toNat_ofNat] at hcode
      omega
    by_cases hl : layer w = .reserved
    · simp [length_bitrateRow, hl]
    · simpa [length_bitrateRow, hl] using hlt

theorem samplerate_of_code_three (hcode : w.extractLsb' 10 2 = 3#2) : samplerate w = none := by
  unfold samplerate samplerateCode
  rw [hcode]; rfl

theorem samplerate_of_code (hcode : w.extractLsb' 10 2 ≠ 3#2) :
    samplerate w = (samplerateRow (version w))[(w.extractLsb' 10 2).toNat]? :=
  if_neg fun h => hcode (BitVec.eq_of_toNat_eq h)

theorem samplerate_eq_none_iff (w : Word) :
    samplerate w = none ↔ w.extractLsb' 10 2 = 3#2 ∨ version w = .reserved := by
  by_cases hcode : w.extractLsb' 10 2 = 3#2
  · exact iff_of_true (samplerate_of_code_three hcode) (.inl hcode)
  rw [or_iff_right hcode, samplerate_of_code hcode, List.getElem?_eq_none_iff, length_samplerateRow]
  have hlt : (w.extractLsb' 10 2).toNat < 3 := by
    simp only [← BitVec.toNat_inj, BitVec.toNat_ofNat] at hcode
    omega
  by_cases hv : version w = .reserved
  · simp [hv]
  · simpa [hv] using hlt

/-- Settles O25: a row of the ROM is full or empty, so only the codes without a column and the reserved rows are left. -/
theorem unresolvedRates : Obligations.UnresolvedRates := fun w =>
  ⟨by rw [bitrate_eq_none_iff, version_eq_reserved_iff, layer_eq_reserved_iff],
    by rw [samplerate_eq_none_iff, version_eq_reserved_iff]⟩

/-! ## Frame size -/

theorem frameSize_of_some (hbr : bitrate w = some br) (hsr : samplerate w = some sr) (hfs : frameSamples w = some fs) :
    frameSize w = some (fs / 8 * (br * 1000) / sr + if padding w then slotSize w else 0) := by
  simp only [frameSize, hbr, hsr, hfs]

theorem frameSize_eq_none_iff (w : Word) :
    frameSize w = none ↔ bitrate w = none ∨ samplerate w = none ∨ frameSamples w = none := by
  cases hbr : bitrate w with
  | none => simp [frameSize, hbr]
  | some br =>
    cases hsr : samplerate w with
    | none => simp [frameSize, hbr, hsr]
    | some sr =>
      cases hfs : frameSamples w with
      | none => simp [frameSize, hbr, hsr, hfs]
      | some fs => simp [frameSize_of_some hbr hsr hfs]

theorem frameSize_eq_some (h : frameSize w = some n) :
    ∃ br sr fs, bitrate w = some br ∧ samplerate w = some sr ∧ frameSamples w = some fs ∧
      n = fs / 8 * (br * 1000) / sr + if padding w then slotSize w else 0 := by
  unfold frameSize at h
  split at h
  · next br sr fs hbr hsr hfs => exact ⟨br, sr, fs, hbr, hsr, hfs, (Option.some.inj h).symm⟩
  · cases h

/-- Settles O26: the model's padding bit and slot size, read off the raw bits. -/
theorem frameSizeFormula : Obligations.FrameSizeFormula := by
  refine fun w => ⟨frameSize_eq_none_iff w, fun br sr fs hbr hsr hfs => ?_⟩
  rw [frameSize_of_some hbr hsr hfs, slotSize_eq]
  rfl

theorem mem_bitrateRow (h : bitrate w = some br) : ∃ k ∈ vclass (version w), br ∈ bitrateRow k (layer w) := by
  by_cases hcode : w.extractLsb' 12 4 = 0#4 ∨ w.extractLsb' 12 4 = 15#4
  · rw [bitrate_of_reserved_code hcode] at h; cases h
  · rw [bitrate_of_code hcode] at h
    obtain ⟨k, hk, hbr⟩ := Option.bind_eq_some_iff.1 h
    exact ⟨k, hk, List.mem_of_getElem? hbr⟩

theorem mem_samplerateRow (h : samplerate w = some sr) : sr ∈ samplerateRow (version w) := by
  by_cases hcode : w.extractLsb' 10 2 = 3#2
  · rw [samplerate_of_code_three hcode] at h; cases h
  · rw [samplerate_of_code hcode] at h
    exact List.mem_of_getElem? h

theorem slotSize_eq_of_layer (w : Word) : slotSize w = if layer w = .layerI then 4 else 1 := by
  simp only [slotSize_eq, layer_eq_layerI_iff]

/-- R113 over the ROM: the quotient of R111 with and without the slot, for every column of every pair of rows. -/
theorem quotient_bounds (v : Version) (l : Layer) :
    ∀ k ∈ vclass v, ∀ br ∈ bitrateRow k l, ∀ sr ∈ samplerateRow v, ∀ fs ∈ frameSamplesEntry l v,
      24 ≤ fs / 8 * (br * 1000) / sr ∧ fs / 8 * (br * 1000) / sr + (if l = .layerI then 4 else 1) ≤ 2881 := by
  cases v <;> cases l <;> decide

theorem frameSize_bounds (h : frameSize w = some n) : 24 ≤ n ∧ n ≤ 2881 := by
  obtain ⟨br, sr, fs, hbr, hsr, hfs, rfl⟩ := frameSize_eq_some h
  obtain ⟨k, hk, hrow⟩ := mem_bitrateRow hbr
  obtain ⟨hlo, hhi⟩ := quotient_bounds _ _ k hk br hrow sr (mem_samplerateRow hsr) fs hfs
  rw [slotSize_eq_of_layer]
  split
  · omega
  · omega

/-- Settles O27: 24 is MPEG2 Layer III at 8 kbps and 24000 Hz, 2881 is MPEG2.5 Layer II at 160 kbps and 8000 Hz, padded. -/
theorem frameSizeBounds : Obligations.FrameSizeBounds := ⟨fun _ _ => frameSize_bounds, by decide, by decide⟩

/-! ## PARSE -/

theorem State.latch_of_header (hw : isHeader w = true) : s.latch w = { s with hdr := some w, hv := true } := if_pos hw

theorem State.latch_of_not_header (hw : isHeader w ≠ true) : s.latch w = { s with hdr := none, hv := false } := if_neg hw

theorem State.latch_eq (s : State) (w : Word) : s.latch w = { s with hdr := (s.latch w).hdr, hv := (s.latch w).hv } := by
  by_cases hw : isHeader w = true
  · rw [State.latch_of_header hw]
  · rw [State.latch_of_not_header hw]

/-- R100 for a `WDATA` that holds a word: nothing is drawn. -/
theorem execParse_of_wdata (hw : s.wdata = some w) :
    exec .parse s = .next { s.invalidateTables.latch w with code := .ok, draws := s.draws } := by
  simp only [exec, execParse, State.wdataWord, State.drawsAfterWdata, hw]
  rfl

/-- Settles O21, one case per answer of `isHeader`. -/
theorem parseLatchesHeader : Obligations.ParseLatchesHeader := by
  intro s w hw
  rw [execParse_of_wdata hw]
  refine ⟨fun hheader => ?_, fun hheader => ?_⟩
  · rw [State.latch_of_header ((isHeader_iff w).2 hheader)]; rfl
  · rw [State.latch_of_not_header (mt (isHeader_iff w).1 hheader)]; rfl

/-- Settles O52: PARSE writes the tables, then the header, then the draws and `CODE`. -/
theorem parseFrame : Obligations.ParseFrame := by
  intro s t h
  refine ⟨?_, fun _ => by rw [exec_src h]⟩
  cases h
  rw [State.latch_eq]
  rfl

end Sys2Proof.Machine
end

section
/-! The frame scanner: its transition table (spec 42_frame_scanner R121), where its micro-steps end (R122, R124, R125), and
what SCAN therefore answers and leaves unchanged (R120, R123). -/

namespace Sys2Proof.Machine

variable {s t : State} {src src' : Source} {w : Word} {p q pos : Nat}

/-! ## The transition table -/

/-- The probe at offset `p` fails (R121): the source ends too early, or the word there has no sync. -/
abbrev NoHeaderAt (src : Source) (p : Nat) : Prop := src.len < p + 4 ∨ isHeader (src.peek4 p) = false

/-- R105 in the bytes of R120: the protection bit 1 means that no CRC follows. -/
theorem headerBytes_eq (w : Word) : headerBytes w = if w.getLsbD 16 then 4 else 6 := by
  unfold headerBytes crcPresent
  cases w.getLsbD 16 <;> rfl

theorem headerBytes_of_crc (hcrc : w.getLsbD 16 = false) : headerBytes w = 6 := by
  rw [headerBytes_eq, hcrc]
  rfl

theorem scanMicro_seeking_of_header (havail : p + 4 ≤ src.len) (hheader : isHeader (src.peek4 p) = true) :
    scanMicro src .seeking p = .goOn .frameFound p := by
  simp [scanMicro, Source.avail, havail, hheader]

/-- A failed probe leaves the two ways that the next byte decides. -/
theorem scanMicro_seeking_of_noHeader (hnone : NoHeaderAt src p) :
    scanMicro src .seeking p = if p + 1 ≤ src.len then .goOn .seeking (p + 1) else .stop (.exhausted p) := by
  have hprobe : (src.avail p 4 && isHeader (src.peek4 p)) = false := by
    obtain hshort | hsync := hnone
    · simp [Source.avail, hshort]
    · simp [hsync]
  rw [scanMicro, hprobe]
  simp [Source.avail, srcSkip]

theorem scanMicro_found (src : Source) (p : Nat) :
    scanMicro src .frameFound p =
      if p + headerBytes (src.peek4 p) ≤ src.len then
        .stop (.header (src.peek4 p) (p + headerBytes (src.peek4 p)))
      else .stop (.exhausted src.len) := by
  simp [scanMicro, Source.avail, srcSkip]

/-- Settles O28: FRAME_FOUND's two rows ask for the header's bytes, SEEKING's last two for the next byte. -/
theorem scannerTransitions : Obligations.ScannerTransitions := fun src p =>
  ⟨scanMicro_seeking_of_header,
    fun hnone hbyte => (scanMicro_seeking_of_noHeader hnone).trans (if_pos hbyte),
    fun hnone hend => (scanMicro_seeking_of_noHeader hnone).trans (if_neg (Nat.not_le.2 hend)),
    fun hbytes => (scanMicro_found src p).trans (if_pos hbytes),
    fun hcut => (scanMicro_found src p).trans (if_neg (Nat.not_le.2 hcut))⟩

/-! ## Where the micro-steps end -/

/-- R125: a failed probe costs exactly one byte. -/
theorem scanFrom_succ (hnone : NoHeaderAt src p) (hbyte : p + 1 ≤ src.len) : scanFrom src p = scanFrom src (p + 1) := by
  have hfuel : src.len - p + 2 = src.len - (p + 1) + 2 + 1 := by omega
  rw [scanFrom, hfuel, scanRun, scanMicro_seeking_of_noHeader hnone, if_pos hbyte]
  rfl

/-- R122: the scanner skips every offset without a header. -/
theorem scanFrom_skip (hle : p ≤ q) (hq : q ≤ src.len) (hnone : ∀ x, p ≤ x → x < q → NoHeaderAt src x) :
    scanFrom src p = scanFrom src q := by
  induction q, hle using Nat.le_induction with
  | base => rfl
  | succ q hpq ih =>
    rw [ih (by omega) fun x hpx hxq => hnone x hpx (by omega)]
    exact scanFrom_succ (hnone q hpq (by omega)) hq

/-- A header under the cursor is consumed whole, or its missing bytes end the scan (R124). -/
theorem scanFrom_of_header (havail : p + 4 ≤ src.len) (hheader : isHeader (src.peek4 p) = true) :
    scanFrom src p =
      if p + headerBytes (src.peek4 p) ≤ src.len then .header (src.peek4 p) (p + headerBytes (src.peek4 p))
      else .exhausted src.len := by
  rw [scanFrom, scanRun, scanMicro_seeking_of_header havail hheader]
  change scanRun src (src.len - p + 1) .frameFound p = _
  rw [scanRun, scanMicro_found]
  split_ifs <;> rfl

/-- The scan from `pos` ends where the first header's bytes decide. -/
theorem scanFrom_first_header (hpos : pos ≤ q) (havail : q + 4 ≤ src.len) (hheader : isHeader (src.peek4 q) = true)
    (hfirst : ∀ x, pos ≤ x → x < q → isHeader (src.peek4 x) = false) :
    scanFrom src pos =
      if q + headerBytes (src.peek4 q) ≤ src.len then .header (src.peek4 q) (q + headerBytes (src.peek4 q))
      else .exhausted src.len := by
  rw [scanFrom_skip hpos (by omega) fun x hx hxq => .inr (hfirst x hx hxq), scanFrom_of_header havail hheader]

theorem scanFrom_first_crc_header (hpos : pos ≤ q) (hbytes : q + 6 ≤ src.len) (hheader : isHeader (src.peek4 q) = true)
    (hfirst : ∀ x, pos ≤ x → x < q → isHeader (src.peek4 x) = false) (hcrc : (src.peek4 q).getLsbD 16 = false) :
    scanFrom src pos = .header (src.peek4 q) (q + 6) := by
  rw [scanFrom_first_header hpos (by omega) hheader hfirst, headerBytes_of_crc hcrc, if_pos hbytes]

/-- At the end of the source no probe and no skip is left. -/
theorem scanFrom_at_end (src : Source) : scanFrom src src.len = .exhausted src.len := by
  rw [scanFrom, scanRun, scanMicro_seeking_of_noHeader (.inl (by omega)), if_neg (by omega)]

/-- Without a header ahead every byte is skipped. -/
theorem scanFrom_no_header (hpos : pos ≤ src.len)
    (hnone : ∀ x, pos ≤ x → x + 4 ≤ src.len → isHeader (src.peek4 x) = false) :
    scanFrom src pos = .exhausted src.len := by
  rw [scanFrom_skip hpos le_rfl fun x hx _ => (Nat.lt_or_ge src.len (x + 4)).imp_right (hnone x hx), scanFrom_at_end]

/-! ## SCAN -/

/-- R120: SCAN that yields a header. -/
theorem execScan_of_header (hdead : s.dead = false) (hlen : s.stream.cacheLen = 0)
    (hend : scanFrom s.src s.stream.pos = .header w p) :
    exec .scan s = .next { s.invalidateTables with
      stream := { s.stream with pos := p }, hdr := some w, hv := true, scanState := .seeking, code := .ok } := by
  refine congrArg Host.Outcome.next ((State.checkByteLevel_of_ready hdead hlen).trans ?_)
  rw [State.scanned, hend]
  rfl

/-- R120, R151: SCAN that exhausts the source. -/
theorem execScan_of_exhausted (hdead : s.dead = false) (hlen : s.stream.cacheLen = 0)
    (hend : scanFrom s.src s.stream.pos = .exhausted p) :
    exec .scan s = .next { s.invalidateTables with
      stream := { s.stream with pos := p }, hdr := none, hv := false, scanState := .seeking, code := .scanEnd } := by
  refine congrArg Host.Outcome.next ((State.checkByteLevel_of_ready hdead hlen).trans ?_)
  rw [State.scanned, hend]
  rfl

/-- Settles O29: the scanner skips to `q` and finds the header's bytes there. -/
theorem scanTakesFirstHeader : Obligations.ScanTakesFirstHeader := by
  intro s q hdead hlen hpos havail hheader hfirst hbytes
  rw [← headerBytes_eq] at hbytes ⊢
  exact execScan_of_header hdead hlen ((scanFrom_first_header hpos havail hheader hfirst).trans (if_pos hbytes))

/-- Settles O30: the scanner skips to `q`, where a header with a CRC needs 6 bytes. -/
theorem scanStopsAtCutCrc : Obligations.ScanStopsAtCutCrc := by
  intro s q hdead hlen hpos havail hheader hfirst hcrc hcut
  have hshort : ¬ q + headerBytes (s.src.peek4 q) ≤ s.src.len := by
    rw [headerBytes_of_crc hcrc]
    omega
  exact execScan_of_exhausted hdead hlen ((scanFrom_first_header hpos havail hheader hfirst).trans (if_neg hshort))

/-- Settles O31: the scanner skips every byte ahead. -/
theorem scanEndsWithoutHeader : Obligations.ScanEndsWithoutHeader := fun _ hdead hlen hpos hnone =>
  execScan_of_exhausted hdead hlen (scanFrom_no_header hpos hnone)

/-- A probe reads the four bytes from its offset on and nothing else. -/
theorem Source.peek4_congr (h : ∀ a, p ≤ a → a < p + 4 → src'.byte a = src.byte a) : src'.peek4 p = src.peek4 p := by
  rw [Source.peek4_bigEndian, Source.peek4_bigEndian, h p (by omega) (by omega), h (p + 1) (by omega) (by omega),
    h (p + 2) (by omega) (by omega), h (p + 3) (by omega) (by omega)]

/-- Settles O32: no probe up to `q` reads the CRC bytes, so both sources have the same first header. -/
theorem crcBytesNotExamined : Obligations.CrcBytesNotExamined := by
  intro s q src' hdead hlen hpos hbytes hheader hfirst hcrc hsameLen hsame
  have hpeek : ∀ p ≤ q, src'.peek4 p = s.src.peek4 p := fun p hp =>
    Source.peek4_congr fun a _ ha => hsame a (by omega) (by omega)
  have hend : scanFrom s.src s.stream.pos = .header (s.src.peek4 q) (q + 6) :=
    scanFrom_first_crc_header hpos hbytes hheader hfirst hcrc
  have hend' : scanFrom src' s.stream.pos = .header (s.src.peek4 q) (q + 6) := by
    rw [← hpeek q le_rfl] at hheader hcrc ⊢
    refine scanFrom_first_crc_header hpos (hsameLen ▸ hbytes) hheader (fun x hx hxq => ?_) hcrc
    rw [hpeek x hxq.le]
    exact hfirst x hx hxq
  exact ⟨_, execScan_of_header hdead hlen hend,
    execScan_of_header (s := { s with src := src' }) hdead hlen hend', rfl⟩

/-- Settles O53: each end of SCAN, a rejection or one of the two after its checks, writes no other field. -/
theorem scanFrame : Obligations.ScanFrame := by
  intro s t h
  refine ⟨?_, fun _ => by rw [exec_src h]⟩
  cases h
  obtain ⟨-, e⟩ | ⟨-, -, e⟩ | ⟨-, -, e⟩ := s.checkByteLevel_cases s.scanned
  · rw [e]; rfl
  · rw [e]; rfl
  · rw [e]
    obtain ⟨_, _, -, e⟩ | ⟨_, -, e⟩ := s.scanned_cases
    · rw [e]; rfl
    · rw [e]; rfl

end Sys2Proof.Machine
end

section
/-! The Layer I decoder: the shared loop as a function of the bit cursor, what RDALLOC, RDSCF, RDSMP and DECL1 answer with
their bits there and without (spec 43_layer1_decoder R131 to R136, R141), DECL1 as the sequence of the other three (R136),
and the frames of the four. -/

namespace Sys2Proof.Machine

variable {s t : State}

/-! ## Fields as a function of the bit cursor -/

/-- R31.1 to R31.3: the stream state is a function of the bit cursor. -/
theorem StreamOk.eq_streamAt {src : Source} {st : BitStream} (h : StreamOk src st) : st = src.streamAt (bitCursor st) := by
  have hcur := h.bitCursor_add
  have hlen : st.cacheLen.toNat < 8 := st.cacheLen.isLt
  have hpos : (bitCursor st + 7) / 8 = st.pos := by omega
  have hheld : 8 * st.pos - bitCursor st = st.cacheLen.toNat := by omega
  rw [Source.streamAt, hpos, hheld, ← h.cache_eq]
  simp

/-- R31.1 to R31.3 hold at every bit cursor inside the source. -/
theorem streamOk_streamAt {src : Source} {k : Nat} (hk : k ≤ 8 * src.len) : StreamOk src (src.streamAt k) := by
  have hstart : StreamOk src ⟨0, 0, 0⟩ := streamOk_of_empty rfl rfl (Nat.zero_le _)
  have hcur : bitCursor ⟨0, 0, 0⟩ = 0 := bitCursor_of_empty rfl
  have hend := hstart.streamAt_add (n := k) (by rwa [hcur, Nat.zero_add])
  rwa [hcur, Nat.zero_add] at hend

theorem StreamOk.bitCursor_le {src : Source} {st : BitStream} (h : StreamOk src st) : bitCursor st ≤ 8 * src.len := by
  have hcur := h.bitCursor_add
  have hpos : st.pos ≤ src.len := h.2.1
  omega

/-- R69, R84: a field with its bits there, of width 0 too. -/
theorem readField_of_enough {src : Source} {n k : Nat} (h : k + n ≤ 8 * src.len) :
    readField src n (src.streamAt k) = some (src.streamBits k n, src.streamAt (k + n)) := by
  have hok : StreamOk src (src.streamAt k) := streamOk_streamAt (by omega)
  by_cases hn : n = 0
  · subst hn
    rw [readField_zero]
    rfl
  · rw [readField_pos _ _ _ hn, hok.readBits_of_enough (by rwa [bitCursor_streamAt]), bitCursor_streamAt]

/-- R88: a field whose bits are not all there; it has at least one. -/
theorem readField_of_short {src : Source} {n k : Nat} (hk : k ≤ 8 * src.len) (h : 8 * src.len < k + n) :
    readField src n (src.streamAt k) = none := by
  rw [readField_pos _ _ _ (by omega), (streamOk_streamAt hk).readBits_eq_none_iff, bitCursor_streamAt]
  exact h

/-! ## The loop as a function of the bit cursor -/

section ReadEach

variable {ι α : Type} {m : Nat} {src : Source} {width : ι → Nat} {place : ι → Fin m} {entry : ι → Nat → Except Code α}

/-- The loop with its bits there and an entry for each of its fields consumes the widths, and stores at the place of field
number `j` what `entry` makes of the bits behind the `j` fields before it. -/
theorem readEach_of_enough (hinj : Function.Injective place) {is : List ι} {k : Nat} (hnodup : is.Nodup)
    (hentry : ∀ i ∈ is, ∀ v, ∃ a, entry i v = .ok a) (henough : k + (is.map width).sum ≤ 8 * src.len)
    (tab : Vector (Option α) m) :
    ∃ tab', readEach src width place entry is (src.streamAt k) tab = .ok (src.streamAt (k + (is.map width).sum), tab') ∧
      ∀ j i a, is[j]? = some i →
        entry i (src.streamBits (k + ((is.take j).map width).sum) (width i)) = .ok a → tab'[place i] = some a := by
  induction is generalizing k tab with
  | nil => exact ⟨tab, rfl, by simp⟩
  | cons x is ih =>
    rw [List.map_cons, List.sum_cons] at henough ⊢
    obtain ⟨hfresh, hnodup⟩ := List.nodup_cons.1 hnodup
    obtain ⟨b, hb⟩ := hentry x (List.mem_cons_self ..) (src.streamBits k (width x))
    have hread : readField src (width x) (src.streamAt k) = some (src.streamBits k (width x), src.streamAt (k + width x)) :=
      readField_of_enough (by omega)
    obtain ⟨tab', hrest, hstored⟩ := ih hnodup (fun i hi => hentry i (List.mem_cons_of_mem _ hi))
      (k := k + width x) (by omega) (tab.set (place x) (some b))
    refine ⟨tab', ?_, fun j i a hi ha => ?_⟩
    · rw [readEach_cons_ok _ _ _ _ _ _ _ _ _ _ _ hread hb, hrest, Nat.add_assoc]
    · cases j with
      | zero =>
        obtain rfl : x = i := by simpa using hi
        obtain rfl : b = a := by simpa [hb] using ha
        rw [readEach_other _ _ _ _ _ _ _ _ _ (place x) hrest fun y hy hyx => hfresh (hinj hyx ▸ hy)]
        exact Vector.getElem_set_self _
      | succ j =>
        refine hstored j i a (by simpa using hi) ?_
        simpa [Nat.add_assoc] using ha

/-- The loop with an entry for each of its fields, but not with all its bits, ends END_OF_STREAM. -/
theorem readEach_of_short {is : List ι} {k : Nat} (hentry : ∀ i ∈ is, ∀ v, ∃ a, entry i v = .ok a)
    (hk : k ≤ 8 * src.len) (hshort : 8 * src.len < k + (is.map width).sum) (tab : Vector (Option α) m) :
    readEach src width place entry is (src.streamAt k) tab = .error .endOfStream := by
  induction is generalizing k tab with
  | nil => simp at hshort; omega
  | cons x is ih =>
    rw [List.map_cons, List.sum_cons] at hshort
    by_cases hfield : k + width x ≤ 8 * src.len
    · obtain ⟨b, hb⟩ := hentry x (List.mem_cons_self ..) (src.streamBits k (width x))
      rw [readEach_cons_ok _ _ _ _ _ _ _ _ _ _ _ (readField_of_enough hfield) hb]
      exact ih (fun i hi => hentry i (List.mem_cons_of_mem _ hi)) hfield (by omega) _
    · exact readEach_cons_none _ _ _ _ _ _ _ _ (readField_of_short hk (by omega))

theorem StreamOk.readEach_of_short {is : List ι} {st : BitStream} (hok : StreamOk src st)
    (hentry : ∀ i ∈ is, ∀ v, ∃ a, entry i v = .ok a) (hshort : 8 * src.len < bitCursor st + (is.map width).sum)
    (tab : Vector (Option α) m) : readEach src width place entry is st tab = .error .endOfStream := by
  rw [hok.eq_streamAt]
  exact Machine.readEach_of_short hentry hok.bitCursor_le hshort tab

/-- R135, R155.7: the first field without an entry ends the loop, once its bits are read. -/
theorem readEach_of_no_entry (hinj : Function.Injective place) {before after : List ι} {x : ι} {k : Nat} {c : Code}
    (hnodup : before.Nodup) (hentry : ∀ i ∈ before, ∀ v, ∃ a, entry i v = .ok a) (hx : ∀ v, entry x v = .error c)
    (henough : k + (before.map width).sum + width x ≤ 8 * src.len) (tab : Vector (Option α) m) :
    readEach src width place entry (before ++ x :: after) (src.streamAt k) tab = .error c := by
  obtain ⟨tab', hread, -⟩ := readEach_of_enough hinj hnodup hentry (k := k) (src := src) (width := width) (by omega) tab
  rw [readEach_append, hread]
  exact readEach_cons_error _ _ _ _ _ _ _ _ _ _ _ (readField_of_enough henough) (hx _)

/-- R155.7: the read of a field comes before what its entry raises. -/
theorem readEach_of_short_before {before after : List ι} {x : ι} {k : Nat} (hinj : Function.Injective place)
    (hnodup : before.Nodup) (hentry : ∀ i ∈ before, ∀ v, ∃ a, entry i v = .ok a) (hk : k ≤ 8 * src.len)
    (hshort : 8 * src.len < k + (before.map width).sum + width x) (tab : Vector (Option α) m) :
    readEach src width place entry (before ++ x :: after) (src.streamAt k) tab = .error .endOfStream := by
  rw [readEach_append]
  by_cases hbefore : k + (before.map width).sum ≤ 8 * src.len
  · obtain ⟨tab', hread, -⟩ := readEach_of_enough hinj hnodup hentry hbefore tab
    rw [hread]
    exact readEach_cons_none _ _ _ _ _ _ _ _ (readField_of_short hbefore hshort)
  · rw [readEach_of_short hentry hk (by omega)]

end ReadEach

/-! ## The orders -/

theorem nodup_codeOrder (n : Fin 3) : (codeOrder n).Nodup := by
  revert n
  decide

theorem nodup_sampleOrder (n : Fin 3) : (sampleOrder n).Nodup :=
  (List.nodup_finRange 12).product (nodup_codeOrder n)


/-- In a row of copies of `l`, the entries before entry `j` of copy number `i`. -/
theorem sum_take_flatten_replicate {l : List Nat} {N i j : Nat} (hi : i < N) (hj : j ≤ l.length) :
    ((List.replicate N l).flatten.take (l.length * i + j)).sum = i * l.sum + (l.take j).sum := by
  induction i generalizing N with
  | zero =>
    obtain ⟨N, rfl⟩ := Nat.exists_eq_add_of_lt hi
    rw [Nat.zero_add, List.replicate_succ, List.flatten_cons, Nat.mul_zero, Nat.zero_add, List.take_append_of_le_length hj,
      Nat.zero_mul, Nat.zero_add]
  | succ i ih =>
    obtain ⟨N, rfl⟩ : ∃ M, N = M + 1 := ⟨N - 1, by omega⟩
    rw [List.replicate_succ, List.flatten_cons, Nat.mul_succ, Nat.add_right_comm, Nat.add_comm, List.take_length_add_append,
      List.sum_append, ih (by omega), Nat.succ_mul]
    omega

/-- The widths of the sample section: those of one granule, twelve times. -/
theorem map_sampleOrder (n : Fin 3) (width : Fin 2 × Fin 32 → Nat) :
    (sampleOrder n).map (fun p => width p.2) = (List.replicate 12 ((codeOrder n).map width)).flatten := by
  rw [sampleOrder, List.map_flatMap, List.flatMap_def]
  simp only [List.map_map, Function.comp_def]
  rw [List.map_const', List.length_finRange]

theorem sum_map_sampleOrder (n : Fin 3) (width : Fin 2 × Fin 32 → Nat) :
    ((sampleOrder n).map fun p => width p.2).sum = 12 * ((codeOrder n).map width).sum := by
  rw [map_sampleOrder, List.sum_flatten, List.map_replicate, List.sum_replicate, smul_eq_mul]

theorem sum_map_take_sampleOrder {n : Fin 3} (width : Fin 2 × Fin 32 → Nat) (gr : Fin 12) {j : Nat} (hj : j ≤ 32 * n.val) :
    (((sampleOrder n).take (32 * n.val * gr.val + j)).map fun p => width p.2).sum =
      gr.val * ((codeOrder n).map width).sum + (((codeOrder n).take j).map width).sum := by
  have hlen : ((codeOrder n).map width).length = 32 * n.val := by rw [List.length_map, length_codeOrder]
  rw [List.map_take, map_sampleOrder, ← hlen, sum_take_flatten_replicate gr.isLt (by rwa [hlen]), List.map_take]

theorem place_le_length_codeOrder {n : Fin 3} {ch : Fin 2} (sb : Fin 32) (h : ch.val < n.val) :
    n.val * sb.val + ch.val ≤ 32 * n.val := by
  rw [← length_codeOrder]
  exact (List.getElem?_eq_some_iff.1 (getElem?_codeOrder sb h)).1.le

/-! ## The sections -/

/-- A code section with its bits there, read into an empty table. -/
theorem codeSection_of_enough {α : Type} {src : Source} {width : Fin 2 × Fin 32 → Nat}
    {entry : Fin 2 × Fin 32 → Nat → Except Code α} {n : Fin 3} {k : Nat}
    (hentry : ∀ p ∈ codeOrder n, ∀ v, ∃ a, entry p v = .ok a)
    (henough : k + ((codeOrder n).map width).sum ≤ 8 * src.len) :
    ∃ tab, readEach src width (fun p => entryIdx p.1 p.2) entry (codeOrder n) (src.streamAt k) noEntries =
        .ok (src.streamAt (k + ((codeOrder n).map width).sum), tab) ∧
      (∀ ch sb, n.val ≤ ch.val → tab[entryIdx ch sb] = none) ∧
      ∀ ch sb a, ch.val < n.val →
        entry (ch, sb) (src.streamBits (k + (((codeOrder n).take (n.val * sb.val + ch.val)).map width).sum)
          (width (ch, sb))) = .ok a → tab[entryIdx ch sb] = some a := by
  obtain ⟨tab, hread, hstored⟩ := readEach_of_enough entryIdx_injective (nodup_codeOrder n) hentry henough noEntries
  refine ⟨tab, hread, fun ch sb hch => ?_, fun ch sb a hch => hstored _ (ch, sb) a (getElem?_codeOrder sb hch)⟩
  simpa [Nat.not_lt.2 hch] using codeSection_held hread ch sb

/-- The sample section with its bits there, read into an empty table; the widths are the same in every granule. -/
theorem sampleSection_of_enough {α : Type} {src : Source} {width : Fin 2 × Fin 32 → Nat}
    {entry : Fin 12 × Fin 2 × Fin 32 → Nat → Except Code α} {n : Fin 3} {k : Nat}
    (hentry : ∀ p ∈ sampleOrder n, ∀ v, ∃ a, entry p v = .ok a)
    (henough : k + 12 * ((codeOrder n).map width).sum ≤ 8 * src.len) :
    ∃ tab, readEach src (fun p => width p.2) (fun p => sampleIdx p.2.1 p.1 p.2.2) entry (sampleOrder n) (src.streamAt k)
        noEntries = .ok (src.streamAt (k + 12 * ((codeOrder n).map width).sum), tab) ∧
      (∀ ch gr sb, n.val ≤ ch.val → tab[sampleIdx ch gr sb] = none) ∧
      ∀ ch gr sb a, ch.val < n.val →
        entry (gr, ch, sb) (src.streamBits (k + gr.val * ((codeOrder n).map width).sum +
          (((codeOrder n).take (n.val * sb.val + ch.val)).map width).sum) (width (ch, sb))) = .ok a →
        tab[sampleIdx ch gr sb] = some a := by
  rw [← sum_map_sampleOrder] at henough ⊢
  obtain ⟨tab, hread, hstored⟩ := readEach_of_enough sampleIdx_injective (nodup_sampleOrder n) hentry henough noEntries
  refine ⟨tab, hread, fun ch gr sb hch => ?_, fun ch gr sb a hch ha => ?_⟩
  · simpa [Nat.not_lt.2 hch] using sampleSection_held hread ch gr sb
  · refine hstored _ (gr, ch, sb) a (getElem?_sampleOrder gr sb hch) ?_
    rwa [sum_map_take_sampleOrder width gr (place_le_length_codeOrder sb hch), ← Nat.add_assoc]

/-! ## RDALLOC -/

theorem State.checkDecoder_of_ready {run : State} {ready : Bool} (hdead : s.dead = false) (hready : ready = true) :
    s.checkDecoder ready run = run := by
  simp [State.checkDecoder, hdead, hready]

theorem execRdalloc_of_ready (hdead : s.dead = false) (hhv : s.hv = true) :
    exec .rdalloc s = .next (s.settle s.allocBody) :=
  congrArg Host.Outcome.next (State.checkDecoder_of_ready hdead hhv)

/-- R130, R131: the allocation section takes `128 * nch` bits. -/
theorem sum_map_allocWidth (n : Fin 3) : ((codeOrder n).map fun _ => 4).sum = 128 * n.val := by
  rw [List.map_const', List.sum_replicate, length_codeOrder, smul_eq_mul]
  omega

theorem sum_map_take_allocWidth {n : Fin 3} {j : Nat} (hj : j ≤ 32 * n.val) :
    (((codeOrder n).take j).map fun _ => 4).sum = 4 * j := by
  rw [List.map_const', List.sum_replicate, List.length_take, length_codeOrder, Nat.min_eq_left hj, smul_eq_mul, Nat.mul_comm]

theorem State.allocBody_of_enough (hok : StreamOk s.src s.stream)
    (henough : bitCursor s.stream + 128 * s.headerChannels.val ≤ 8 * s.src.len) :
    ∃ tab, s.allocBody = .ok { s.invalidateTables with
        nch := s.headerChannels, alloc := tab, av := true,
        stream := s.src.streamAt (bitCursor s.stream + 128 * s.headerChannels.val) } ∧
      ∀ ch sb, tab[entryIdx ch sb] = if ch.val < s.headerChannels.val then
        some (BitVec.ofNat 4 (s.src.streamBits (bitCursor s.stream + 4 * (s.headerChannels.val * sb.val + ch.val)) 4))
        else none := by
  rw [← sum_map_allocWidth] at henough ⊢
  obtain ⟨tab, hread, hnone, hstored⟩ :=
    codeSection_of_enough (entry := fun _ v => .ok (BitVec.ofNat 4 v)) (fun _ _ v => ⟨_, rfl⟩) henough
  rw [← hok.eq_streamAt] at hread
  refine ⟨tab, by rw [State.allocBody, hread], fun ch sb => ?_⟩
  split_ifs with hch
  · refine hstored ch sb _ hch ?_
    rw [sum_map_take_allocWidth (place_le_length_codeOrder sb hch)]
  · exact hnone ch sb (Nat.not_lt.1 hch)

/-- R141. -/
theorem State.allocBody_of_short (hok : StreamOk s.src s.stream)
    (hshort : 8 * s.src.len < bitCursor s.stream + 128 * s.headerChannels.val) : s.allocBody = .error .endOfStream := by
  rw [← sum_map_allocWidth] at hshort
  rw [State.allocBody, hok.readEach_of_short (fun _ _ _ => ⟨_, rfl⟩) hshort]

/-- Settles O34: the allocation section read at the bit cursor, with its widths summed up. -/
theorem rdallocStoresCodes : Obligations.RdallocStoresCodes := by
  intro s w n hdead hhv hhdr hok hn henough
  obtain rfl : n = s.headerChannels := hn.trans (headerChannels_of_hdr hhdr).symm
  obtain ⟨tab, hbody, htab⟩ := s.allocBody_of_enough hok henough
  have hexec := execRdalloc_of_ready hdead hhv
  rw [hbody, State.settle_ok] at hexec
  exact ⟨_, hexec, htab, bitCursor_streamAt _ _, streamOk_streamAt henough, rfl⟩

/-! ## RDSCF -/

theorem execRdscf_of_ready (hdead : s.dead = false) (hhv : s.hv = true) (hav : s.av = true) :
    exec .rdscf s = .next (s.settle s.scfBody) :=
  congrArg Host.Outcome.next (State.checkDecoder_of_ready hdead (by simp [State.readyForScf, hhv, hav]))

theorem State.scfWidth_of_zero {p : Fin 2 × Fin 32} (h : s.allocCode p.1 p.2 = 0#4) : s.scfWidth p = 0 := if_pos h

theorem State.scfWidth_of_ne_zero {p : Fin 2 × Fin 32} (h : s.allocCode p.1 p.2 ≠ 0#4) : s.scfWidth p = 6 := if_neg h

/-- R132: six bits for each nonzero code. -/
theorem sum_map_scfWidth (s : State) (l : List (Fin 2 × Fin 32)) :
    (l.map s.scfWidth).sum = 6 * l.countP fun p => s.allocCode p.1 p.2 ≠ 0 := by
  induction l with
  | nil => rfl
  | cons p l ih =>
    rw [List.map_cons, List.sum_cons, ih]
    by_cases hp : s.allocCode p.1 p.2 = 0#4
    · rw [State.scfWidth_of_zero hp, List.countP_cons_of_neg (by simpa using hp), Nat.zero_add]
    · rw [State.scfWidth_of_ne_zero hp, List.countP_cons_of_pos (by simpa using hp), Nat.mul_succ, Nat.add_comm]

theorem State.scfBody_of_enough (hok : StreamOk s.src s.stream)
    (henough : bitCursor s.stream + 6 * s.nonzeroCodes ≤ 8 * s.src.len) :
    ∃ tab, s.scfBody = .ok { s.invalidateScf with
        scf := tab, sv := true, stream := s.src.streamAt (bitCursor s.stream + 6 * s.nonzeroCodes) } ∧
      ∀ ch sb, tab[entryIdx ch sb] = if s.nch.val ≤ ch.val then none
        else if s.allocCode ch sb = 0#4 then some 0#6
        else some (BitVec.ofNat 6 (s.src.streamBits (bitCursor s.stream +
          6 * ((codeOrder s.nch).take (s.nch.val * sb.val + ch.val)).countP fun p => s.allocCode p.1 p.2 ≠ 0) 6)) := by
  rw [State.nonzeroCodes, ← sum_map_scfWidth] at henough ⊢
  obtain ⟨tab, hread, hnone, hstored⟩ :=
    codeSection_of_enough (entry := fun _ v => .ok (BitVec.ofNat 6 v)) (fun _ _ v => ⟨_, rfl⟩) henough
  rw [← hok.eq_streamAt] at hread
  refine ⟨tab, by rw [State.scfBody, hread], fun ch sb => ?_⟩
  split_ifs with hch hcode
  · exact hnone ch sb hch
  · refine hstored ch sb _ (Nat.not_le.1 hch) ?_
    rw [State.scfWidth_of_zero hcode]
    rfl
  · refine hstored ch sb _ (Nat.not_le.1 hch) ?_
    rw [sum_map_scfWidth, State.scfWidth_of_ne_zero hcode]

/-- R141. -/
theorem State.scfBody_of_short (hok : StreamOk s.src s.stream)
    (hshort : 8 * s.src.len < bitCursor s.stream + 6 * s.nonzeroCodes) : s.scfBody = .error .endOfStream := by
  rw [State.nonzeroCodes, ← sum_map_scfWidth] at hshort
  rw [State.scfBody, hok.readEach_of_short (fun _ _ _ => ⟨_, rfl⟩) hshort]

/-- Settles O35: the scale-factor section read at the bit cursor; a field of width 0 reads as 0. -/
theorem rdscfStoresScaleFactors : Obligations.RdscfStoresScaleFactors := by
  intro s hdead hhv hav hok henough
  obtain ⟨tab, hbody, htab⟩ := s.scfBody_of_enough hok henough
  have hexec := execRdscf_of_ready hdead hhv hav
  rw [hbody, State.settle_ok] at hexec
  exact ⟨_, hexec, htab, bitCursor_streamAt _ _, streamOk_streamAt henough, rfl⟩

/-! ## RDSMP -/

theorem execRdsmp_of_ready (hdead : s.dead = false) (hhv : s.hv = true) (hav : s.av = true) (hsv : s.sv = true) :
    exec .rdsmp s = .next (s.settle s.samplesBody) :=
  congrArg Host.Outcome.next (State.checkDecoder_of_ready hdead (by simp [State.readyForSamples, hhv, hav, hsv]))

/-- R135: the linear-scaling table has a factor for every width below 15. -/
theorem sampleOf_of_factor {linear : Fin 14 → FiniteF64} {sf : Fin 64 → FiniteF64} {nb : BitVec 4} {scf : BitVec 6} {v : Nat}
    (hnb : nb ≠ 0#4) (h : nb.toNat - 1 < 14) :
    sampleOf linear sf nb scf v = .ok (scaled nb.toNat v (linear ⟨nb.toNat - 1, h⟩) (sf scf.toFin)) := by
  refine (if_neg hnb).trans ?_
  rw [linearEntry, dif_pos h]

theorem sampleOf_fifteen (linear : Fin 14 → FiniteF64) (sf : Fin 64 → FiniteF64) (scf : BitVec 6) (v : Nat) :
    sampleOf linear sf 15#4 scf v = .error .linearIndexRange := rfl

theorem toNat_pred_lt_of_ne_fifteen {nb : BitVec 4} (h : nb ≠ 15#4) : nb.toNat - 1 < 14 := by
  bv_omega

/-- R133, R134: every code but 15 has a sample. -/
theorem State.sampleEntry_ok {p : Fin 12 × Fin 2 × Fin 32} (h : s.allocCode p.2.1 p.2.2 ≠ 15#4) (v : Nat) :
    ∃ a, s.sampleEntry p v = .ok a := by
  rw [State.sampleEntry]
  by_cases hzero : s.allocCode p.2.1 p.2.2 = 0#4
  · exact ⟨f64Zero, if_pos hzero⟩
  · exact ⟨_, sampleOf_of_factor hzero (toNat_pred_lt_of_ne_fifteen h)⟩

theorem State.sampleOrder_entry_ok (hcodes : ∀ ch sb, ch.val < s.nch.val → s.allocCode ch sb ≠ 15#4) :
    ∀ p ∈ sampleOrder s.nch, ∀ v, ∃ a, s.sampleEntry p v = .ok a :=
  fun p hp => State.sampleEntry_ok (hcodes p.2.1 p.2.2 ((mem_sampleOrder _ _).1 hp))

theorem State.sampleWidth_eq (s : State) : s.sampleWidth = fun p => (s.allocCode p.2.1 p.2.2).toNat := rfl

theorem State.samplesBody_of_enough (hok : StreamOk s.src s.stream)
    (hcodes : ∀ ch sb, ch.val < s.nch.val → s.allocCode ch sb ≠ 15#4)
    (henough : bitCursor s.stream + 12 * s.sumOfCodes ≤ 8 * s.src.len) :
    ∃ tab, s.samplesBody = .ok { s.invalidateSamples with
        sample := tab, mv := true, stream := s.src.streamAt (bitCursor s.stream + 12 * s.sumOfCodes) } ∧
      (∀ ch gr sb, s.nch.val ≤ ch.val → tab[sampleIdx ch gr sb] = none) ∧
      ∀ ch gr sb a, ch.val < s.nch.val →
        s.sampleEntry (gr, ch, sb) (s.src.streamBits (bitCursor s.stream + gr.val * s.sumOfCodes +
          (((codeOrder s.nch).take (s.nch.val * sb.val + ch.val)).map fun p => (s.allocCode p.1 p.2).toNat).sum)
          (s.allocCode ch sb).toNat) = .ok a → tab[sampleIdx ch gr sb] = some a := by
  obtain ⟨tab, hread, hnone, hstored⟩ := sampleSection_of_enough (width := fun p => (s.allocCode p.1 p.2).toNat)
    (State.sampleOrder_entry_ok hcodes) henough
  rw [← hok.eq_streamAt] at hread
  refine ⟨tab, ?_, hnone, hstored⟩
  rw [State.samplesBody, s.sampleWidth_eq, hread]
  rfl

/-- R141. -/
theorem State.samplesBody_of_short (hok : StreamOk s.src s.stream)
    (hcodes : ∀ ch sb, ch.val < s.nch.val → s.allocCode ch sb ≠ 15#4)
    (hshort : 8 * s.src.len < bitCursor s.stream + 12 * s.sumOfCodes) : s.samplesBody = .error .endOfStream := by
  rw [State.sumOfCodes, ← sum_map_sampleOrder] at hshort
  rw [State.samplesBody, s.sampleWidth_eq, hok.readEach_of_short (State.sampleOrder_entry_ok hcodes) hshort]

/-- Settles O36: the sample section read at the bit cursor, each field turned into its sample. -/
theorem rdsmpStoresSamples : Obligations.RdsmpStoresSamples := by
  intro s hdead hhv hav hsv hok hcodes henough
  obtain ⟨tab, hbody, hnone, hstored⟩ := s.samplesBody_of_enough hok hcodes henough
  have hexec := execRdsmp_of_ready hdead hhv hav hsv
  rw [hbody, State.settle_ok] at hexec
  refine ⟨_, hexec, fun ch gr sb => ⟨hnone ch gr sb, ?_, ?_⟩, bitCursor_streamAt _ _, streamOk_streamAt henough, rfl⟩
  · intro hch hzero
    exact hstored ch gr sb f64Zero hch (if_pos hzero)
  · intro hch hcode hfactor
    exact hstored ch gr sb (scaled _ _ _ _) hch (sampleOf_of_factor hcode hfactor)

/-- The sample section begins with granule 0. -/
theorem sampleOrder_eq_append (n : Fin 3) : ∃ rest, sampleOrder n = (codeOrder n).map (Prod.mk 0) ++ rest :=
  ⟨_, by rw [sampleOrder, List.finRange_succ, List.flatMap_cons]⟩

/-- R135, R155.7: RDSMP's body at the first code 15, which lies in granule 0. -/
theorem State.samplesBody_of_fifteen (hok : StreamOk s.src s.stream) {before after : List (Fin 2 × Fin 32)}
    {p : Fin 2 × Fin 32} (horder : codeOrder s.nch = before ++ p :: after)
    (hbefore : ∀ q ∈ before, s.allocCode q.1 q.2 ≠ 15#4) (hp : s.allocCode p.1 p.2 = 15#4) :
    s.samplesBody = .error
      (if bitCursor s.stream + (before.map fun q => (s.allocCode q.1 q.2).toNat).sum + 15 ≤ 8 * s.src.len then
        .linearIndexRange else .endOfStream) := by
  obtain ⟨rest, hrest⟩ := sampleOrder_eq_append s.nch
  rw [horder, List.map_append, List.map_cons, List.append_assoc, List.cons_append] at hrest
  have hnodup : (before.map (Prod.mk (0 : Fin 12))).Nodup :=
    (horder ▸ nodup_codeOrder s.nch).of_append_left.map (Prod.mk_right_injective 0)
  have hentry : ∀ q ∈ before.map (Prod.mk (0 : Fin 12)), ∀ v, ∃ a, s.sampleEntry q v = .ok a := by
    intro q hq
    obtain ⟨x, hx, rfl⟩ := List.mem_map.1 hq
    exact State.sampleEntry_ok (hbefore x hx)
  have hfifteen : ∀ v, s.sampleEntry (0, p) v = .error .linearIndexRange := fun v => by
    rw [State.sampleEntry, hp]
    exact sampleOf_fifteen _ _ _ v
  have hsum : ((before.map (Prod.mk (0 : Fin 12))).map s.sampleWidth).sum =
      (before.map fun q => (s.allocCode q.1 q.2).toNat).sum := by
    rw [List.map_map]
    rfl
  have hwidth : s.sampleWidth (0, p) = 15 := congrArg BitVec.toNat hp
  rw [← hsum, State.samplesBody, hrest, hok.eq_streamAt, bitCursor_streamAt]
  split_ifs with henough
  · rw [readEach_of_no_entry sampleIdx_injective hnodup hentry hfifteen (by rwa [hwidth])]
  · rw [readEach_of_short_before sampleIdx_injective hnodup hentry hok.bitCursor_le (by rw [hwidth]; omega)]

/-- R153: a command whose body fails leaves what a fatal fault leaves. -/
theorem fatalOf_of_settle {r : Result} {body : Except Code State} {c : Code} (hexec : r = .next (s.settle body))
    (hbody : body = .error c) : ∃ t, r = .next t ∧ FatalOf c s t := by
  subst hbody
  exact ⟨_, hexec, fatalOf_fatal s c⟩

/-- Settles O37: the body's first failure is at the first code 15, or before it for lack of bits. -/
theorem codeFifteenFaults : Obligations.CodeFifteenFaults := by
  intro s before after p hdead hhv hav hsv hok horder hbefore hp
  have hexec := execRdsmp_of_ready hdead hhv hav hsv
  have hbody := State.samplesBody_of_fifteen hok horder hbefore hp
  refine ⟨fun henough => fatalOf_of_settle hexec ?_, fun hshort => fatalOf_of_settle hexec ?_⟩
  · rw [hbody, if_pos henough]
  · rw [hbody, if_neg (Nat.not_le.2 hshort)]

/-! ## DECL1 -/

theorem execDecl1_of_ready (hdead : s.dead = false) (hhv : s.hv = true) :
    exec .decl1 s = .next (s.settle s.decodeBody) :=
  congrArg Host.Outcome.next (State.checkDecoder_of_ready hdead hhv)

theorem State.decodeBody_of_alloc_error {c : Code} (h : s.allocBody = .error c) : s.decodeBody = .error c := by
  rw [State.decodeBody, h]

theorem State.decodeBody_of_scf_error {c : Code} (ha : s.allocBody = .ok t) (h : t.scfBody = .error c) :
    s.decodeBody = .error c := by
  simp only [State.decodeBody, ha, h]

theorem State.decodeBody_of_ok {u : State} (ha : s.allocBody = .ok t) (hb : t.scfBody = .ok u) :
    s.decodeBody = u.samplesBody := by
  simp only [State.decodeBody, ha, hb]

theorem headerChannels_val_of_hdr {w : Word} (h : s.hdr = some w) :
    s.headerChannels.val = if w.extractLsb' 6 2 = 3#2 then 1 else 2 := by
  rw [headerChannels_of_hdr h, apply_ite Fin.val]
  rfl

/-- Settles O38: each body ends END_OF_STREAM when its section's bits are not all there. -/
theorem truncatedSectionsFatal : Obligations.TruncatedSectionsFatal := by
  intro s hdead hhv hok
  refine ⟨fun w hhdr hshort => ?_, fun hav hshort => ?_, fun hav hsv hcodes hshort => ?_⟩
  · have hbody : s.allocBody = .error .endOfStream :=
      State.allocBody_of_short hok (by rwa [headerChannels_val_of_hdr hhdr])
    exact ⟨fatalOf_of_settle (execRdalloc_of_ready hdead hhv) hbody,
      fatalOf_of_settle (execDecl1_of_ready hdead hhv) (State.decodeBody_of_alloc_error hbody)⟩
  · exact fatalOf_of_settle (execRdscf_of_ready hdead hhv hav) (State.scfBody_of_short hok hshort)
  · exact fatalOf_of_settle (execRdsmp_of_ready hdead hhv hav hsv) (State.samplesBody_of_short hok hcodes hshort)

/-- `K` of a state whose codes below `NCH` are `code`. -/
theorem State.nonzeroCodes_eq {code : Fin 2 × Fin 32 → Nat}
    (h : ∀ p, p.1.val < s.nch.val → (s.allocCode p.1 p.2).toNat = code p) :
    s.nonzeroCodes = (codeOrder s.nch).countP fun p => code p ≠ 0 := by
  refine List.countP_congr fun p hp => ?_
  rw [decide_eq_true_eq, decide_eq_true_eq, ← h p ((mem_codeOrder _ _).1 hp), Ne, Ne, BitVec.toNat_eq]
  rfl

/-- `S` of a state whose codes below `NCH` are `code`. -/
theorem State.sumOfCodes_eq {code : Fin 2 × Fin 32 → Nat}
    (h : ∀ p, p.1.val < s.nch.val → (s.allocCode p.1 p.2).toNat = code p) :
    s.sumOfCodes = ((codeOrder s.nch).map code).sum :=
  congrArg List.sum (List.map_congr_left fun p hp => h p ((mem_codeOrder _ _).1 hp))

/-- R136: the two later sections, each read where the one before it ends. -/
theorem State.decodeBody_of_enough {a : State} (ha : s.allocBody = .ok a) (hok : StreamOk a.src a.stream)
    (hcodes : ∀ ch sb, ch.val < a.nch.val → a.allocCode ch sb ≠ 15#4)
    (henough : bitCursor a.stream + (6 * a.nonzeroCodes + 12 * a.sumOfCodes) ≤ 8 * a.src.len) :
    ∃ scf sample, s.decodeBody = .ok { a with
      scf := scf, sample := sample, sv := true, mv := true,
      stream := a.src.streamAt (bitCursor a.stream + (6 * a.nonzeroCodes + 12 * a.sumOfCodes)) } := by
  obtain ⟨scf, hscf, -⟩ := a.scfBody_of_enough hok (by omega)
  have hscfEnd : bitCursor a.stream + 6 * a.nonzeroCodes ≤ 8 * a.src.len := by omega
  obtain ⟨sample, hsample, -⟩ := State.samplesBody_of_enough
    (s := { a.invalidateScf with
      scf := scf, sv := true, stream := a.src.streamAt (bitCursor a.stream + 6 * a.nonzeroCodes) })
    (streamOk_streamAt hscfEnd) hcodes (by rw [bitCursor_streamAt, Nat.add_assoc]; exact henough)
  refine ⟨scf, sample, (State.decodeBody_of_ok ha hscf).trans (hsample.trans ?_)⟩
  rw [bitCursor_streamAt, Nat.add_assoc]
  rfl

/-- Settles O40: the codes the first section stores are those of the stream, and lay out the other two. -/
theorem decl1DecodesWholePayload : Obligations.Decl1DecodesWholePayload := by
  intro s w n code hdead hhv hhdr hok hn hcode hfifteen henough
  obtain rfl : n = s.headerChannels := hn.trans (headerChannels_of_hdr hhdr).symm
  obtain ⟨alloc, halloc, hstored⟩ := s.allocBody_of_enough hok (by omega)
  simp only [← hcode (_, _)] at hstored
  generalize ha : ({ s.invalidateTables with nch := _, alloc := _, av := _, stream := _ } : State) = a at halloc
  have hnch : a.nch = s.headerChannels := by rw [← ha]
  have hcodes : ∀ p, p.1.val < a.nch.val → (a.allocCode p.1 p.2).toNat = code p := by
    intro p hp
    have hheld : a.alloc[entryIdx p.1 p.2] = some (BitVec.ofNat 4 (code p)) := by
      rw [← ha]
      exact (hstored p.1 p.2).trans (if_pos (hnch ▸ hp))
    rw [allocCode_of_alloc hheld, BitVec.toNat_ofNat, hcode]
    exact Nat.mod_eq_of_lt (Source.streamBits_lt _ _ 4)
  have hno : ∀ ch sb, ch.val < a.nch.val → a.allocCode ch sb ≠ 15#4 := fun ch sb hch h =>
    hfifteen (ch, sb) (hnch ▸ hch) (by rw [← hcodes (ch, sb) hch, h]; rfl)
  have hallocEnd : bitCursor s.stream + 128 * s.headerChannels.val ≤ 8 * s.src.len := by omega
  have hend := State.decodeBody_of_enough halloc (by rw [← ha]; exact streamOk_streamAt hallocEnd) hno
  have hcur : bitCursor a.stream = bitCursor s.stream + 128 * s.headerChannels.val := by
    rw [← ha]
    exact bitCursor_streamAt _ _
  rw [State.nonzeroCodes_eq hcodes, State.sumOfCodes_eq hcodes, hnch, State.allocBody_src halloc, hcur, Nat.add_assoc,
    ← Nat.add_assoc (128 * _)] at hend
  obtain ⟨scf, sample, hbody⟩ := hend henough
  subst ha
  have hexec := execDecl1_of_ready hdead hhv
  rw [hbody, State.settle_ok] at hexec
  exact ⟨_, hexec, hstored, bitCursor_streamAt _ _, streamOk_streamAt henough, rfl⟩

/-! ## Frames -/

/-- `t` is `s` but for the stream state, the tables with their valid bits and `NCH`, `CODE` and `ERR`. -/
def SameOutsideDecoder (s t : State) : Prop :=
  t = { s with
    stream := t.stream, alloc := t.alloc, scf := t.scf, sample := t.sample, av := t.av, sv := t.sv, mv := t.mv,
    nch := t.nch, code := t.code, err := t.err }

theorem SameOutsideDecoder.dead_eq (h : SameOutsideDecoder s t) : t.dead = s.dead := by
  rw [h]

theorem SameOutsideDecoder.trans {u : State} (h : SameOutsideDecoder s t) (h' : SameOutsideDecoder t u) :
    SameOutsideDecoder s u := by
  rw [SameOutsideDecoder, h', h]

theorem sameOutsideDecoder_allocBody (h : s.allocBody = .ok t) : SameOutsideDecoder s t := by
  obtain ⟨_, _, -, rfl⟩ := s.allocBody_ok t h
  rfl

theorem sameOutsideDecoder_scfBody (h : s.scfBody = .ok t) : SameOutsideDecoder s t := by
  obtain ⟨_, _, -, rfl⟩ := s.scfBody_ok t h
  rfl

theorem sameOutsideDecoder_samplesBody (h : s.samplesBody = .ok t) : SameOutsideDecoder s t := by
  obtain ⟨_, _, -, rfl⟩ := s.samplesBody_ok t h
  rfl

theorem sameOutsideDecoder_decodeBody (h : s.decodeBody = .ok t) : SameOutsideDecoder s t := by
  obtain ⟨a, b, ha, hb, ht⟩ := s.decodeBody_ok t h
  exact ((sameOutsideDecoder_allocBody ha).trans (sameOutsideDecoder_scfBody hb)).trans (sameOutsideDecoder_samplesBody ht)

theorem SameOutsideDecoder.complete (h : SameOutsideDecoder s t) (c : Code) : SameOutsideDecoder s (t.complete c) :=
  h.trans rfl

/-- A decoder command is rejected, completes with what its body gives, or dies of what its body raises. -/
theorem State.checkDecoder_settle_cases (s : State) (ready : Bool) (body : Except Code State) :
    (∃ c, s.checkDecoder ready (s.settle body) = s.reject c) ∨
    (∃ t, body = .ok t ∧ s.checkDecoder ready (s.settle body) = t.complete .ok) ∨
    (s.dead = false ∧ ∃ c, s.checkDecoder ready (s.settle body) = s.fatal c) := by
  obtain ⟨-, e⟩ | ⟨-, -, e⟩ | ⟨hdead, -, e⟩ := s.checkDecoder_cases (s.settle body) ready
  · exact .inl ⟨_, e⟩
  · exact .inl ⟨_, e⟩
  · obtain ⟨t, hbody, hsettle⟩ | ⟨c, -, hsettle⟩ := s.settle_cases body
    · exact .inr (.inl ⟨t, hbody, e.trans hsettle⟩)
    · exact .inr (.inr ⟨hdead, c, e.trans hsettle⟩)

/-- The frame of a decoder command from the frames of its rejections and of its body: only the fatal fault changes
`DEAD`, so `DEAD` tells the two ways apart. -/
theorem State.checkDecoder_frame {same : State → Prop} {ready : Bool} {body : Except Code State}
    (hsame : ∀ t, same t → t.dead = s.dead) (hreject : ∀ c, same (s.reject c))
    (hbody : ∀ t, body = .ok t → same (t.complete .ok)) (h : t = s.checkDecoder ready (s.settle body)) :
    (t.dead = s.dead → same t) ∧ (t.dead ≠ s.dead → FatalOf t.code s t) := by
  obtain ⟨c, e⟩ | ⟨u, hu, e⟩ | ⟨halive, c, e⟩ := s.checkDecoder_settle_cases ready body
  · rw [h, e]
    exact ⟨fun _ => hreject c, fun hdead => absurd rfl hdead⟩
  · rw [h, e]
    exact ⟨fun _ => hbody u hu, fun hdead => absurd (hsame _ (hbody u hu)) hdead⟩
  · rw [h, e]
    exact ⟨fun hdead => by simp [halive] at hdead, fun _ => fatalOf_fatal s c⟩

/-- Settles O54: the bodies of RDALLOC and DECL1 write nothing outside the decoder. -/
theorem allocatingCommandsFrame : Obligations.AllocatingCommandsFrame := by
  intro i s t hi h
  rw [← and_assoc]
  refine ⟨?_, fun _ => by rw [exec_src h]⟩
  obtain rfl | rfl := hi
  · cases h
    exact State.checkDecoder_frame (same := SameOutsideDecoder s) (fun _ => SameOutsideDecoder.dead_eq) (fun _ => rfl)
      (fun _ hu => (sameOutsideDecoder_allocBody hu).complete .ok) rfl
  · cases h
    exact State.checkDecoder_frame (same := SameOutsideDecoder s) (fun _ => SameOutsideDecoder.dead_eq) (fun _ => rfl)
      (fun _ hu => (sameOutsideDecoder_decodeBody hu).complete .ok) rfl

/-- `t` is `s` but for the stream state, `SCF`, `SAMPLE` with their valid bits, `CODE` and `ERR`. -/
def SameOutsideScf (s t : State) : Prop :=
  t = { s with stream := t.stream, scf := t.scf, sample := t.sample, sv := t.sv, mv := t.mv, code := t.code, err := t.err }

/-- `t` is `s` but for the stream state, `SAMPLE` with its valid bit, `CODE` and `ERR`. -/
def SameOutsideSamples (s t : State) : Prop :=
  t = { s with stream := t.stream, sample := t.sample, mv := t.mv, code := t.code, err := t.err }

theorem sameOutsideScf_scfBody (h : s.scfBody = .ok t) : SameOutsideScf s (t.complete .ok) := by
  obtain ⟨_, _, -, rfl⟩ := s.scfBody_ok t h
  rfl

theorem sameOutsideSamples_samplesBody (h : s.samplesBody = .ok t) : SameOutsideSamples s (t.complete .ok) := by
  obtain ⟨_, _, -, rfl⟩ := s.samplesBody_ok t h
  rfl

/-- Settles O55: the body of RDSCF writes nothing outside `SCF` and `SAMPLE`, that of RDSMP nothing outside `SAMPLE`. -/
theorem laterSectionsFrame : Obligations.LaterSectionsFrame := by
  refine fun s t => ⟨fun h => ?_, fun h => ?_⟩
  · rw [← and_assoc]
    refine ⟨?_, fun _ => by rw [exec_src h]⟩
    cases h
    exact State.checkDecoder_frame (same := SameOutsideScf s) (fun _ ht => by rw [ht]) (fun _ => rfl)
      (fun _ => sameOutsideScf_scfBody) rfl
  · rw [← and_assoc]
    refine ⟨?_, fun _ => by rw [exec_src h]⟩
    cases h
    exact State.checkDecoder_frame (same := SameOutsideSamples s) (fun _ ht => by rw [ht]) (fun _ => rfl)
      (fun _ => sameOutsideSamples_samplesBody) rfl

/-! ## DECL1 as a sequence -/

theorem thenRun_of_ok {i : Instr} (h : t.code = .ok) : thenRun (.next t) i = exec i t := if_pos h

theorem thenRun_of_ne_ok {i : Instr} (h : t.code ≠ .ok) : thenRun (.next t) i = .next t := if_neg h

/-- R153: a fatal fault poisons every field that the decoder may have written before it. -/
theorem SameOutsideDecoder.fatal_eq (h : SameOutsideDecoder s t) (c : Code) : t.fatal c = s.fatal c := by
  rw [h]
  rfl

theorem SameOutsideDecoder.settle_eq (h : SameOutsideDecoder s t) (body : Except Code State) :
    t.settle body = s.settle body := by
  cases body with
  | ok u => rfl
  | error c => exact h.fatal_eq c

@[simp] theorem State.complete_scfWidth (s : State) (c : Code) : (s.complete c).scfWidth = s.scfWidth := rfl

@[simp] theorem State.complete_sampleWidth (s : State) (c : Code) : (s.complete c).sampleWidth = s.sampleWidth := rfl

@[simp] theorem State.complete_sampleEntry (s : State) (c : Code) : (s.complete c).sampleEntry = s.sampleEntry := rfl

/-- `CODE` is no input of RDSCF, and its end overwrites it. -/
theorem State.settle_scfBody_complete (s : State) (c : Code) :
    (s.complete c).settle (s.complete c).scfBody = s.settle s.scfBody := by
  simp only [State.scfBody, State.complete_src, State.complete_scfWidth, State.complete_nch, State.complete_stream]
  split <;> rfl

/-- `CODE` is no input of RDSMP, and its end overwrites it. -/
theorem State.settle_samplesBody_complete (s : State) (c : Code) :
    (s.complete c).settle (s.complete c).samplesBody = s.settle s.samplesBody := by
  simp only [State.samplesBody, State.complete_src, State.complete_sampleWidth, State.complete_sampleEntry,
    State.complete_nch, State.complete_stream]
  split <;> rfl

/-- The rest of the sequence after an RDALLOC and an RDSCF that end OK is the body of RDSMP. -/
theorem thenRun_rdsmp (hdead : t.dead = false) (hhv : t.hv = true) (hav : t.av = true) (hsv : t.sv = true) :
    thenRun (.next (t.complete .ok)) .rdsmp = .next (t.settle t.samplesBody) := by
  rw [thenRun_of_ok (t.complete_code .ok), execRdsmp_of_ready (s := t.complete .ok) hdead hhv hav hsv,
    t.settle_samplesBody_complete]

theorem thenRun_rdscf (hdead : t.dead = false) (hhv : t.hv = true) (hav : t.av = true) :
    thenRun (.next (t.complete .ok)) .rdscf = .next (t.settle t.scfBody) := by
  rw [thenRun_of_ok (t.complete_code .ok), execRdscf_of_ready (s := t.complete .ok) hdead hhv hav,
    t.settle_scfBody_complete]

/-- An outcome that is not OK stops the sequence. -/
theorem thenRun_thenRun_of_ne_ok {i j : Instr} (h : t.code ≠ .ok) : thenRun (thenRun (.next t) i) j = .next t := by
  rw [thenRun_of_ne_ok h, thenRun_of_ne_ok h]

/-- R136: the bodies in order are the commands in order, each started where the one before it ended OK. -/
theorem settle_decodeBody_eq_sequence (hdead : s.dead = false) (hhv : s.hv = true) :
    .next (s.settle s.decodeBody) = thenRun (thenRun (.next (s.settle s.allocBody)) .rdscf) .rdsmp := by
  cases ha : s.allocBody with
  | error c =>
    obtain rfl := s.allocBody_error c ha
    rw [State.decodeBody_of_alloc_error ha, State.settle_error, thenRun_thenRun_of_ne_ok (by simp)]
  | ok a =>
    have hsame := sameOutsideDecoder_allocBody ha
    obtain ⟨_, _, -, hallocated⟩ := s.allocBody_ok a ha
    have hadead : a.dead = false := hsame.dead_eq.trans hdead
    have hahv : a.hv = true := by rw [hallocated]; exact hhv
    have haav : a.av = true := by rw [hallocated]
    rw [State.settle_ok, thenRun_rdscf hadead hahv haav]
    cases hb : a.scfBody with
    | error c =>
      obtain rfl := a.scfBody_error c hb
      rw [State.decodeBody_of_scf_error ha hb, State.settle_error, State.settle_error, thenRun_of_ne_ok (by simp),
        hsame.fatal_eq]
    | ok b =>
      have hsame' := sameOutsideDecoder_scfBody hb
      obtain ⟨_, _, -, hscaled⟩ := a.scfBody_ok b hb
      have hbdead : b.dead = false := hsame'.dead_eq.trans hadead
      have hbhv : b.hv = true := by rw [hscaled]; exact hahv
      have hbav : b.av = true := by rw [hscaled]; exact haav
      have hbsv : b.sv = true := by rw [hscaled]
      rw [State.decodeBody_of_ok ha hb, State.settle_ok, thenRun_rdsmp hbdead hbhv hbav hbsv, (hsame.trans hsame').settle_eq]

/-- R131, R136: RDALLOC and DECL1 make the same checks, and a rejection stops the sequence. -/
theorem execDecl1_eq_sequence_of_reject {c : Code} (hc : c ≠ .ok)
    (h : ∀ run, s.checkDecoder s.readyForAlloc run = s.reject c) :
    exec .decl1 s = thenRun (thenRun (exec .rdalloc s) .rdscf) .rdsmp := by
  have halloc : exec .rdalloc s = .next (s.reject c) := congrArg Host.Outcome.next (h _)
  have hdecl1 : exec .decl1 s = .next (s.reject c) := congrArg Host.Outcome.next (h _)
  rw [halloc, hdecl1, thenRun_thenRun_of_ne_ok (by simpa)]

/-- Settles O39: rejected alike, or the bodies run in the same order. -/
theorem decl1EqualsStepCommands : Obligations.Decl1EqualsStepCommands := by
  intro s
  cases hdead : s.dead with
  | true => exact execDecl1_eq_sequence_of_reject (c := .streamDead) (by decide) fun _ => if_pos hdead
  | false =>
    cases hhv : s.hv with
    | true => rw [execRdalloc_of_ready hdead hhv, execDecl1_of_ready hdead hhv, settle_decodeBody_eq_sequence hdead hhv]
    | false =>
      refine execDecl1_eq_sequence_of_reject (c := .sequenceError) (by decide) fun run => ?_
      simp [State.checkDecoder, State.readyForAlloc, hdead, hhv]

end Sys2Proof.Machine
end

section
/-! Binary64 (spec 43_layer1_decoder R138): the one rounding function is nearest with ties to even and is exact on
representable numbers; so the dequantiser's input is exact (R134), and tables of positive normal numbers decide the sign of
a sample but not that it is finite (R142). -/

namespace Sys2Proof.Machine

/-! ## The parts of a number -/

/-- `-1` for a set sign bit, else `1`. -/
def signValue (neg : Bool) : ℚ := if neg then -1 else 1

theorem signValue_mul_self (neg : Bool) : signValue neg * signValue neg = 1 := by
  cases neg <;> norm_num [signValue]

theorem valueF64_eq (x : FiniteF64) : valueF64 x = signValue x.neg * ((significand x : ℚ) * 2 ^ exponent x) :=
  mul_assoc _ _ _

theorem significand_lt (x : FiniteF64) : significand x < 2 ^ 53 := by
  have hfrac : x.frac.toNat < 2 ^ 52 := x.frac.isLt
  unfold significand
  split <;> omega

theorem le_exponent (x : FiniteF64) : -1074 ≤ exponent x := by
  unfold exponent
  split <;> omega

/-- Only the two zeros have the significand 0. -/
theorem eq_zeroF64_of_significand_eq_zero {x : FiniteF64} (h : significand x = 0) : x = zeroF64 x.neg := by
  obtain ⟨neg, expo, frac⟩ := x
  unfold significand at h
  split at h
  · next hexpo =>
    obtain rfl : expo = 0 := Fin.ext hexpo
    obtain rfl : frac = 0 := BitVec.eq_of_toNat_eq h
    rfl
  · omega

theorem significand_pos_of_normal {x : FiniteF64} (h : x.expo ≠ 0) : 0 < significand x := by
  have hexpo : x.expo.val ≠ 0 := fun h0 => h (Fin.ext h0)
  rw [significand, if_neg hexpo]
  positivity

/-! ## Powers of two -/

theorem two_zpow_pos (e : Int) : (0 : ℚ) < 2 ^ e := by positivity

theorem two_zpow_le {a b : Int} (h : a ≤ b) : (2 : ℚ) ^ a ≤ 2 ^ b := zpow_le_zpow_right₀ (by norm_num) h

theorem mul_two_zpow_lt {m k : Nat} (hm : m < 2 ^ k) (g : Int) : (m : ℚ) * 2 ^ g < 2 ^ (k + g) := by
  rw [zpow_add₀ two_ne_zero, zpow_natCast]
  exact mul_lt_mul_of_pos_right (by exact_mod_cast hm) (two_zpow_pos g)

theorem le_mul_two_zpow {m k : Nat} (hm : 2 ^ k ≤ m) (g : Int) : (2 : ℚ) ^ (k + g) ≤ m * 2 ^ g := by
  rw [zpow_add₀ two_ne_zero, zpow_natCast]
  exact mul_le_mul_of_nonneg_right (by exact_mod_cast hm) (two_zpow_pos g).le

theorem two_zpow_toNat (e : Int) : (2 : ℚ) ^ e.toNat = 2 ^ e * 2 ^ (-e).toNat := by
  rcases le_total 0 e with h | h
  · obtain ⟨n, rfl⟩ := Int.eq_ofNat_of_zero_le h
    simp
  · obtain ⟨n, hn⟩ := Int.eq_ofNat_of_zero_le (Int.neg_nonneg.2 h)
    obtain rfl : e = -n := by omega
    simp

/-! ## Packing -/

/-- What `packF64` is given: a significand of at most `2^53`, and one below `2^52` only with the least exponent. -/
structure Packable (q : Nat) (u : Int) : Prop where
  le : q ≤ 2 ^ 53
  exponent_le : -1074 ≤ u
  normal : q < 2 ^ 52 → u = -1074

theorem packF64_subnormal {q : Nat} (neg : Bool) (u : Int) (hq : q < 2 ^ 52) :
    packF64 neg q u = .finite ⟨neg, 0, BitVec.ofNat 52 q⟩ := by
  have hcarry : q ≠ 2 ^ 53 := by omega
  simp only [packF64, if_neg hcarry, if_pos hq]

theorem packF64_normal {q : Nat} {u : Int} (neg : Bool) (hlo : 2 ^ 52 ≤ q) (hhi : q < 2 ^ 53) :
    packF64 neg q u =
      if h : (u + 1075).toNat < 2047 then .finite ⟨neg, ⟨(u + 1075).toNat, h⟩, BitVec.ofNat 52 (q - 2 ^ 52)⟩
      else .inf neg := by
  have hcarry : q ≠ 2 ^ 53 := by omega
  have hnormal : ¬ q < 2 ^ 52 := by omega
  simp only [packF64, if_neg hcarry, if_neg hnormal]

theorem packF64_carry (neg : Bool) (u : Int) : packF64 neg (2 ^ 53) u = packF64 neg (2 ^ 52) (u + 1) := by
  rw [packF64_normal neg le_rfl (by norm_num)]
  have h : u + 1 + 1075 = u + 1076 := by ring
  simp only [packF64, h]
  simp

/-- The bound of the finite numbers, at a significand of 53 bits. -/
theorem mul_two_zpow_lt_iff {q : Nat} {u : Int} (hlo : 2 ^ 52 ≤ q) (hhi : q < 2 ^ 53) :
    (q : ℚ) * 2 ^ u < 2 ^ (1024 : Int) ↔ u ≤ 971 := by
  constructor
  · intro h
    by_contra hu
    have hle : (2 : ℚ) ^ (1024 : Int) ≤ q * 2 ^ u := (two_zpow_le (by omega)).trans (le_mul_two_zpow hlo u)
    exact absurd h (not_lt.2 hle)
  · exact fun hu => (mul_two_zpow_lt hhi u).trans_le (two_zpow_le (by omega))

/-- `r` is the number `q * 2^u` with sign `neg`, or the infinity of that sign if it is too large. -/
structure PacksTo (neg : Bool) (q : Nat) (u : Int) (r : F64) : Prop where
  overflow : 2 ^ (1024 : Int) ≤ (q : ℚ) * 2 ^ u → r = .inf neg
  finite : (q : ℚ) * 2 ^ u < 2 ^ (1024 : Int) → ∃ x, r = .finite x ∧ x.neg = neg ∧
    valueF64 x = signValue neg * (q * 2 ^ u) ∧ x.frac.getLsbD 0 = decide (q % 2 = 1)

theorem getLsbD_zero_ofNat (q : Nat) : (BitVec.ofNat 52 q).getLsbD 0 = decide (q % 2 = 1) := by
  rw [BitVec.getLsbD_ofNat, Nat.testBit_zero]
  rfl

theorem packsTo_of_subnormal {q : Nat} (neg : Bool) (hq : q < 2 ^ 52) : PacksTo neg q (-1074) (packF64 neg q (-1074)) := by
  rw [packF64_subnormal neg _ hq]
  have hvalue : valueF64 ⟨neg, 0, BitVec.ofNat 52 q⟩ = signValue neg * (q * 2 ^ (-1074 : Int)) := by
    have hsig : significand ⟨neg, 0, BitVec.ofNat 52 q⟩ = q := Nat.mod_eq_of_lt hq
    rw [valueF64_eq, hsig]
    rfl
  refine ⟨fun h => ?_, fun _ => ⟨_, rfl, rfl, hvalue, ?_⟩⟩
  · have hlt : (q : ℚ) * 2 ^ (-1074 : Int) < 2 ^ (1024 : Int) := (mul_two_zpow_lt hq _).trans_le (two_zpow_le (by norm_num))
    exact absurd h (not_le.2 hlt)
  · exact getLsbD_zero_ofNat q

theorem packsTo_of_normal {q : Nat} {u : Int} (neg : Bool) (hu : -1074 ≤ u) (hlo : 2 ^ 52 ≤ q) (hhi : q < 2 ^ 53) :
    PacksTo neg q u (packF64 neg q u) := by
  rw [packF64_normal neg hlo hhi]
  refine ⟨fun h => ?_, fun h => ?_⟩
  · have hbig : ¬ u ≤ 971 := mt (mul_two_zpow_lt_iff hlo hhi).2 (not_lt.2 h)
    exact dif_neg (by omega)
  · have hu' : u ≤ 971 := (mul_two_zpow_lt_iff hlo hhi).1 h
    have hexpo : (u + 1075).toNat < 2047 := by omega
    have hne : (u + 1075).toNat ≠ 0 := by omega
    refine ⟨_, dif_pos hexpo, rfl, ?_, ?_⟩
    · rw [valueF64_eq, significand, exponent, if_neg hne, if_neg hne, BitVec.toNat_ofNat,
        Nat.mod_eq_of_lt (by omega : q - 2 ^ 52 < 2 ^ 52), Nat.add_sub_cancel' hlo]
      congr 3
      simp only
      omega
    · have hparity : (q - 2 ^ 52) % 2 = q % 2 := by omega
      rw [getLsbD_zero_ofNat, hparity]

/-- A significand rounded up to `2^53` is `2^52` with the next exponent. -/
theorem two_pow_53_mul (u : Int) : ((2 ^ 53 : Nat) : ℚ) * 2 ^ u = ((2 ^ 52 : Nat) : ℚ) * 2 ^ (u + 1) := by
  rw [zpow_add_one₀ (by norm_num)]
  push_cast
  ring

/-- `packF64` gives the number it is asked for, with the parity of the significand in its last bit. -/
theorem Packable.packsTo {q : Nat} {u : Int} (h : Packable q u) (neg : Bool) : PacksTo neg q u (packF64 neg q u) := by
  obtain ⟨hle, hu, hnormal⟩ := h
  rcases Nat.lt_or_ge q (2 ^ 52) with hlo | hlo
  · obtain rfl := hnormal hlo
    exact packsTo_of_subnormal neg hlo
  · rcases Nat.lt_or_eq_of_le hle with hhi | rfl
    · exact packsTo_of_normal neg hu hlo hhi
    · obtain ⟨hoverflow, hfinite⟩ := packsTo_of_normal neg (by omega : -1074 ≤ u + 1) le_rfl (by norm_num)
      rw [packF64_carry]
      exact ⟨two_pow_53_mul u ▸ hoverflow, two_pow_53_mul u ▸ hfinite⟩

/-! ## Rounding to an integer -/

/-- `q` is the integer nearest to `z`, and the even one of two. -/
structure NearestEven (z : ℚ) (q : Nat) : Prop where
  near : |(q : ℚ) - z| ≤ 1 / 2
  even : |(q : ℚ) - z| = 1 / 2 → q % 2 = 0

theorem nearestEven_roundHalfEven (num : Nat) {den : Nat} (hden : 0 < den) :
    NearestEven ((num : ℚ) / den) (roundHalfEven num den) := by
  have hden' : (0 : ℚ) < den := by exact_mod_cast hden
  have hz : (num : ℚ) / den = (num / den : Nat) + ((num % den : Nat) : ℚ) / den := by
    have hdiv : (num : ℚ) = den * (num / den : Nat) + (num % den : Nat) := by
      exact_mod_cast (Nat.div_add_mod num den).symm
    rw [div_eq_iff hden'.ne', add_mul, div_mul_cancel₀ _ hden'.ne', mul_comm, ← hdiv]
  have hhalf : ((num % den : Nat) : ℚ) / den = 1 / 2 ↔ 2 * (num % den) = den := by
    rw [div_eq_div_iff hden'.ne' two_ne_zero, one_mul, mul_comm]
    exact_mod_cast Iff.rfl
  have hltHalf : 1 / 2 < ((num % den : Nat) : ℚ) / den ↔ den < 2 * (num % den) := by
    rw [div_lt_div_iff₀ two_pos hden', one_mul, mul_comm]
    exact_mod_cast Iff.rfl
  have hpos : 0 ≤ ((num % den : Nat) : ℚ) / den := by positivity
  have hlt : ((num % den : Nat) : ℚ) / den < 1 := (div_lt_one hden').2 (by exact_mod_cast Nat.mod_lt num hden)
  rw [hz, roundHalfEven]
  generalize ((num % den : Nat) : ℚ) / den = f at *
  simp only [← hltHalf, ← hhalf]
  split_ifs with hup
  · have hge : 1 / 2 ≤ f := hup.elim le_of_lt fun h => h.1.ge
    have habs : |((num / den + 1 : Nat) : ℚ) - ((num / den : Nat) + f)| = 1 - f := by
      rw [abs_of_nonneg (by push_cast; linarith)]
      push_cast
      ring
    refine ⟨by rw [habs]; linarith, fun htie => ?_⟩
    have hodd : num / den % 2 = 1 := (hup.resolve_left (by rw [habs] at htie; linarith)).2
    omega
  · obtain ⟨hle, heven⟩ := not_or.1 hup
    have habs : |((num / den : Nat) : ℚ) - ((num / den : Nat) + f)| = f := by
      rw [sub_add_cancel_left, abs_neg, abs_of_nonneg hpos]
    refine ⟨by rw [habs]; exact not_lt.1 hle, fun htie => ?_⟩
    have hnotOdd : num / den % 2 ≠ 1 := fun h => heven ⟨habs ▸ htie, h⟩
    omega

/-- No integer is nearer, and another as near only where the answer is even. -/
theorem NearestEven.le_of_int {z : ℚ} {q : Nat} (h : NearestEven z q) (k : Int) :
    |(q : ℚ) - z| ≤ |k - z| ∧ (|(q : ℚ) - z| = |k - z| → (k : ℚ) ≠ q → q % 2 = 0) := by
  obtain ⟨hnear, heven⟩ := h
  by_cases hk : (k : ℚ) = q
  · rw [hk]
    exact ⟨le_rfl, fun _ hne => absurd rfl hne⟩
  · have hapart : (1 : ℚ) ≤ |(k : ℚ) - q| := by
      have hne : k - q ≠ 0 := fun h0 => hk (by rw [sub_eq_zero.1 h0, Int.cast_natCast])
      exact_mod_cast Int.one_le_abs hne
    have htriangle : |(k : ℚ) - q| ≤ |k - z| + |(q : ℚ) - z| := abs_sub_comm z q ▸ abs_sub_le _ z _
    exact ⟨by linarith, fun htie _ => heven (by linarith)⟩

/-! ## Rounding to 53 bits -/

theorem mul_two_pow_toNat_le_iff {n d : Nat} (hd : 0 < d) (k : Int) :
    d * 2 ^ k.toNat ≤ n * 2 ^ (-k).toNat ↔ (2 : ℚ) ^ k ≤ n / d := by
  have hd' : (0 : ℚ) < d := by exact_mod_cast hd
  have hscale : (0 : ℚ) < 2 ^ (-k).toNat := by positivity
  have hcast : d * 2 ^ k.toNat ≤ n * 2 ^ (-k).toNat ↔ (d : ℚ) * 2 ^ k.toNat ≤ n * 2 ^ (-k).toNat := by
    exact_mod_cast Iff.rfl
  rw [hcast, two_zpow_toNat, ← mul_assoc, mul_le_mul_iff_of_pos_right hscale, le_div_iff₀ hd', mul_comm]

/-- `floorLog2` brackets the quotient between two powers of two. -/
theorem floorLog2_bounds {n d : Nat} (hn : 0 < n) (hd : 0 < d) :
    (2 : ℚ) ^ floorLog2 n d ≤ n / d ∧ (n : ℚ) / d < 2 ^ (floorLog2 n d + 1) := by
  have hd' : (0 : ℚ) < d := by exact_mod_cast hd
  have hnlo : (2 : ℚ) ^ (Nat.log2 n : Int) ≤ n := by exact_mod_cast Nat.log2_self_le hn.ne'
  have hnhi : (n : ℚ) < 2 ^ (Nat.log2 n + 1 : Int) := by exact_mod_cast Nat.lt_log2_self
  have hdlo : (2 : ℚ) ^ (Nat.log2 d : Int) ≤ d := by exact_mod_cast Nat.log2_self_le hd.ne'
  have hdhi : (d : ℚ) < 2 ^ (Nat.log2 d + 1 : Int) := by exact_mod_cast Nat.lt_log2_self
  have hlo : (2 : ℚ) ^ ((Nat.log2 n : Int) - Nat.log2 d - 1) ≤ n / d := by
    rw [sub_sub, zpow_sub₀ two_ne_zero]
    exact div_le_div₀ (Nat.cast_nonneg n) hnlo hd' hdhi.le
  have hhi : (n : ℚ) / d < 2 ^ ((Nat.log2 n : Int) - Nat.log2 d + 1) := by
    rw [sub_add_eq_add_sub, zpow_sub₀ two_ne_zero]
    exact div_lt_div₀ hnhi hdlo (two_zpow_pos _).le (two_zpow_pos _)
  simp only [floorLog2, mul_two_pow_toNat_le_iff hd]
  split_ifs with h
  · exact ⟨h, hhi⟩
  · exact ⟨hlo, by rw [sub_add_cancel]; exact not_le.1 h⟩

/-- `q * 2^u` is what the exact magnitude `z * 2^u` is rounded to: the unit `2^u` leaves `z` 53 bits, but is not below the
least unit. -/
structure RoundsTo (z : ℚ) (q : Nat) (u : Int) : Prop where
  nearest : NearestEven z q
  exponent_le : -1074 ≤ u
  normal : -1074 < u → 2 ^ 52 ≤ z
  lt : z < 2 ^ 53

theorem RoundsTo.packable {z : ℚ} {q : Nat} {u : Int} (h : RoundsTo z q u) : Packable q u := by
  obtain ⟨⟨hnear, -⟩, hu, hnormal, hlt⟩ := h
  obtain ⟨hlo, hhi⟩ := abs_le.1 hnear
  refine ⟨?_, hu, fun hq => ?_⟩
  · have hq : (q : ℚ) < 2 ^ 53 + 1 := by linarith
    have hq' : q < 2 ^ 53 + 1 := by exact_mod_cast hq
    omega
  · by_contra hne
    have hz := hnormal (by omega)
    have hq' : (2 : ℚ) ^ 52 < q + 1 := by linarith
    have hq'' : 2 ^ 52 < q + 1 := by exact_mod_cast hq'
    omega

theorem roundF64_zero (neg : Bool) (d : Nat) (e : Int) : roundF64 neg 0 d e = .finite (zeroF64 neg) := rfl

theorem roundsTo_zero : RoundsTo 0 0 (-1074) :=
  ⟨⟨by norm_num, fun _ => rfl⟩, le_rfl, fun h => absurd h (lt_irrefl _), by norm_num⟩

/-- `roundF64` packs what a positive magnitude is rounded to. -/
theorem roundF64_roundsTo_of_pos {n d : Nat} (hn : 0 < n) (hd : 0 < d) (e : Int) :
    ∃ z q u, (n : ℚ) / d * 2 ^ e = z * 2 ^ u ∧ RoundsTo z q u ∧ ∀ neg, roundF64 neg n d e = packF64 neg q u := by
  obtain ⟨hlo, hhi⟩ := floorLog2_bounds hn hd
  obtain ⟨u, hu⟩ : ∃ u, u = max (floorLog2 n d + e - 52) (-1074) := ⟨_, rfl⟩
  have hd' : (0 : ℚ) < d := by exact_mod_cast hd
  have hz : ((n * 2 ^ (e - u).toNat : Nat) : ℚ) / (d * 2 ^ (u - e).toNat : Nat) = n / d * 2 ^ (e - u) := by
    push_cast
    rw [two_zpow_toNat (e - u), neg_sub, ← mul_assoc, mul_div_mul_right _ _ (by positivity), mul_div_right_comm]
  have hnearest : NearestEven ((n : ℚ) / d * 2 ^ (e - u)) (roundHalfEven (n * 2 ^ (e - u).toNat) (d * 2 ^ (u - e).toNat)) :=
    hz ▸ nearestEven_roundHalfEven _ (by positivity)
  refine ⟨n / d * 2 ^ (e - u), _, u, ?_, ⟨hnearest, by omega, fun hnormal => ?_, ?_⟩, fun neg => ?_⟩
  · rw [mul_assoc, ← zpow_add₀ two_ne_zero, sub_add_cancel]
  · have hunit : floorLog2 n d + (e - u) = 52 := by omega
    calc (2 : ℚ) ^ 52 = 2 ^ floorLog2 n d * 2 ^ (e - u) := by
          rw [← zpow_add₀ two_ne_zero, hunit]
          rfl
      _ ≤ n / d * 2 ^ (e - u) := mul_le_mul_of_nonneg_right hlo (two_zpow_pos _).le
  · calc (n : ℚ) / d * 2 ^ (e - u) < 2 ^ (floorLog2 n d + 1) * 2 ^ (e - u) := mul_lt_mul_of_pos_right hhi (two_zpow_pos _)
      _ = 2 ^ (floorLog2 n d + 1 + (e - u)) := (zpow_add₀ two_ne_zero _ _).symm
      _ ≤ 2 ^ (53 : Int) := two_zpow_le (by omega)
  · rw [roundF64, if_neg hn.ne', ← hu]

/-- `roundF64` packs what the exact magnitude is rounded to. -/
theorem roundF64_roundsTo (n : Nat) {d : Nat} (hd : 0 < d) (e : Int) :
    ∃ z q u, (n : ℚ) / d * 2 ^ e = z * 2 ^ u ∧ RoundsTo z q u ∧ ∀ neg, roundF64 neg n d e = packF64 neg q u := by
  rcases Nat.eq_zero_or_pos n with rfl | hn
  · exact ⟨0, 0, -1074, by simp, roundsTo_zero, fun _ => rfl⟩
  · exact roundF64_roundsTo_of_pos hn hd e

/-! ## Overflow -/

/-- The two bounds in units of `2^971`, the last bit of the largest finite number. -/
theorem overflow_bounds_scaled (z : ℚ) (q : Nat) (u : Int) :
    (2 ^ (1024 : Int) ≤ (q : ℚ) * 2 ^ u ↔ 2 ^ 53 ≤ (q : ℚ) * 2 ^ (u - 971)) ∧
    ((2 ^ 54 - 1) * (2 : ℚ) ^ (970 : Int) ≤ z * 2 ^ u ↔ 2 ^ 53 - 1 / 2 ≤ z * 2 ^ (u - 971)) := by
  have hscale : (0 : ℚ) < 2 ^ (971 : Int) := two_zpow_pos _
  have hu : (2 : ℚ) ^ u = 2 ^ (u - 971) * 2 ^ (971 : Int) := by rw [← zpow_add₀ two_ne_zero, sub_add_cancel]
  have hmax : (2 : ℚ) ^ (1024 : Int) = 2 ^ 53 * 2 ^ (971 : Int) := zpow_add₀ two_ne_zero 53 971
  have hhalf : (2 ^ 54 - 1) * (2 : ℚ) ^ (970 : Int) = (2 ^ 53 - 1 / 2) * 2 ^ (971 : Int) := by
    have hdouble : (2 : ℚ) ^ (971 : Int) = 2 ^ (970 : Int) * 2 := zpow_add_one₀ two_ne_zero 970
    rw [hdouble]
    ring
  rw [hu, hmax, hhalf, ← mul_assoc, ← mul_assoc, mul_le_mul_iff_of_pos_right hscale, mul_le_mul_iff_of_pos_right hscale]
  exact ⟨Iff.rfl, Iff.rfl⟩

/-- Half an ulp below `2^53` the tie goes to `2^53`, since `2^53 - 1` is odd. -/
theorem NearestEven.two_pow_53_le_iff {z : ℚ} {q : Nat} (h : NearestEven z q) :
    (2 : ℚ) ^ 53 ≤ q ↔ 2 ^ 53 - 1 / 2 ≤ z := by
  obtain ⟨hnear, heven⟩ := h
  obtain ⟨hlo, hhi⟩ := abs_le.1 hnear
  constructor
  · intro hq
    linarith
  · intro hz
    by_contra hq
    have hq' : q < 2 ^ 53 := by exact_mod_cast not_le.1 hq
    have hge : (2 : ℚ) ^ 53 ≤ q + 1 := by linarith
    have hge' : 2 ^ 53 ≤ q + 1 := by exact_mod_cast hge
    obtain rfl : q = 2 ^ 53 - 1 := by omega
    have htie : |((2 ^ 53 - 1 : Nat) : ℚ) - z| = 1 / 2 := by
      push_cast at hlo ⊢
      rw [abs_sub_comm, abs_of_nonneg (by linarith)]
      linarith
    have := heven htie
    omega

/-- The answer overflows exactly from half an ulp above the largest finite number on. -/
theorem RoundsTo.overflow_iff {z : ℚ} {q : Nat} {u : Int} (h : RoundsTo z q u) :
    2 ^ (1024 : Int) ≤ (q : ℚ) * 2 ^ u ↔ (2 ^ 54 - 1) * (2 : ℚ) ^ (970 : Int) ≤ z * 2 ^ u := by
  obtain ⟨hle, -, hnormalq⟩ := h.packable
  obtain ⟨hnearest, -, hnormal, hlt⟩ := h
  have hle' : (q : ℚ) ≤ 2 ^ 53 := by exact_mod_cast hle
  obtain ⟨hq, hz⟩ := overflow_bounds_scaled z q u
  rw [hq, hz]
  have hpos : (0 : ℚ) < 2 ^ (u - 971) := two_zpow_pos _
  rcases lt_trichotomy u 971 with hu | rfl | hu
  · have hscale : (2 : ℚ) ^ (u - 971) ≤ 2 ^ (-1 : Int) := two_zpow_le (by omega)
    norm_num at hscale
    exact iff_of_false (by nlinarith) (by nlinarith)
  · simpa using hnearest.two_pow_53_le_iff
  · have hscale : (2 : ℚ) ^ (1 : Int) ≤ 2 ^ (u - 971) := two_zpow_le (by omega)
    have hq52 : 2 ^ 52 ≤ q := not_lt.1 fun hlt => by have := hnormalq hlt; omega
    have hq52' : (2 : ℚ) ^ 52 ≤ q := by exact_mod_cast hq52
    have hz52 := hnormal (by omega)
    norm_num at hscale
    exact iff_of_true (by nlinarith) (by nlinarith)

/-! ## Nearest -/

theorem signValue_mul (neg neg' : Bool) : signValue neg * signValue neg' = signValue (neg != neg') := by
  cases neg <;> cases neg' <;> norm_num [signValue]

theorem signValue_le_one (neg : Bool) : signValue neg ≤ 1 := by
  cases neg <;> norm_num [signValue]

theorem signValue_eq_intCast (neg : Bool) : ∃ k : Int, signValue neg = k := by
  cases neg
  · exact ⟨1, by norm_num [signValue]⟩
  · exact ⟨-1, by norm_num [signValue]⟩

/-- A number of 53 bits is a multiple of the unit of the answer, or is below all numbers of that unit. -/
theorem multiple_or_lt {m : Nat} {g : Int} (hm : m < 2 ^ 53) (hg : -1074 ≤ g) (u : Int) :
    (∃ k : Int, (m : ℚ) * 2 ^ g = k * 2 ^ u) ∨ (-1074 < u ∧ (m : ℚ) * 2 ^ g < 2 ^ 52 * 2 ^ u) := by
  rcases le_or_gt u g with hu | hu
  · obtain ⟨l, hl⟩ := Int.eq_ofNat_of_zero_le (sub_nonneg.2 hu)
    refine .inl ⟨m * 2 ^ l, ?_⟩
    rw [← sub_add_cancel g u, zpow_add₀ two_ne_zero, hl]
    push_cast
    rw [zpow_natCast, mul_assoc]
  · refine .inr ⟨hg.trans_lt hu, ?_⟩
    calc (m : ℚ) * 2 ^ g < 2 ^ (53 + g) := mul_two_zpow_lt hm g
      _ ≤ 2 ^ (52 + u) := two_zpow_le (by omega)
      _ = 2 ^ 52 * 2 ^ u := zpow_add₀ two_ne_zero _ _

theorem valueF64_multiple_or_lt (y : FiniteF64) (neg : Bool) (u : Int) :
    (∃ k : Int, signValue neg * valueF64 y = k * 2 ^ u) ∨
    (-1074 < u ∧ signValue neg * valueF64 y < 2 ^ 52 * 2 ^ u) := by
  rw [valueF64_eq, ← mul_assoc, signValue_mul]
  rcases multiple_or_lt (significand_lt y) (le_exponent y) u with ⟨k, hk⟩ | ⟨hu, hlt⟩
  · obtain ⟨l, hl⟩ := signValue_eq_intCast (neg != y.neg)
    refine .inl ⟨l * k, ?_⟩
    rw [hl, hk, Int.cast_mul, mul_assoc]
  · have hmag : (0 : ℚ) ≤ significand y * 2 ^ exponent y := by positivity
    exact .inr ⟨hu, (mul_le_of_le_one_left hmag (signValue_le_one _)).trans_lt hlt⟩

/-- No finite number is nearer to the exact magnitude than the answer, and another as near only where the answer's last bit
is 0. -/
theorem RoundsTo.nearest_finite {z : ℚ} {q : Nat} {u : Int} (h : RoundsTo z q u) (neg : Bool) (y : FiniteF64) :
    |(q : ℚ) * 2 ^ u - z * 2 ^ u| ≤ |signValue neg * valueF64 y - z * 2 ^ u| ∧
    (|(q : ℚ) * 2 ^ u - z * 2 ^ u| = |signValue neg * valueF64 y - z * 2 ^ u| →
      signValue neg * valueF64 y ≠ q * 2 ^ u → q % 2 = 0) := by
  have hpos : (0 : ℚ) < 2 ^ u := two_zpow_pos u
  rw [← sub_mul, abs_mul, abs_of_pos hpos]
  rcases valueF64_multiple_or_lt y neg u with ⟨k, hk⟩ | ⟨hu, hlt⟩
  · obtain ⟨hle, heven⟩ := h.nearest.le_of_int k
    rw [hk, ← sub_mul, abs_mul, abs_of_pos hpos]
    exact ⟨mul_le_mul_of_nonneg_right hle hpos.le,
      fun htie hne => heven (mul_right_cancel₀ hpos.ne' htie) fun hkq => hne (by rw [hkq])⟩
  · have hz := h.normal hu
    have hbelow := (h.nearest.le_of_int (2 ^ 52)).1
    rw [Int.cast_pow, Int.cast_ofNat, abs_of_nonpos (by linarith : (2 : ℚ) ^ 52 - z ≤ 0)] at hbelow
    have hfar : |(q : ℚ) - z| * 2 ^ u < |signValue neg * valueF64 y - z * 2 ^ u| := by
      rw [abs_sub_comm (signValue neg * valueF64 y)]
      refine lt_of_lt_of_le ?_ (le_abs_self _)
      calc |(q : ℚ) - z| * 2 ^ u ≤ -(2 ^ 52 - z) * 2 ^ u := mul_le_mul_of_nonneg_right hbelow hpos.le
        _ = z * 2 ^ u - 2 ^ 52 * 2 ^ u := by ring
        _ < z * 2 ^ u - signValue neg * valueF64 y := by linarith
    exact ⟨hfar.le, fun htie => absurd htie hfar.ne⟩

/-- The distance from a number of the sign asked for is that of the magnitudes. -/
theorem abs_sub_signValue_mul (neg : Bool) (v X : ℚ) : |v - signValue neg * X| = |signValue neg * v - X| := by
  cases neg
  · simp [signValue]
  · simp only [signValue, if_true, neg_one_mul, sub_neg_eq_add]
    rw [← abs_neg, neg_add']

/-- Settles O43: the magnitude is rounded to the nearest multiple of its unit, and no other finite number is nearer. -/
theorem roundingIsNearest : Obligations.RoundingIsNearest := by
  intro neg n d e hd
  obtain ⟨z, q, u, hX, hrounds, hpack⟩ := roundF64_roundsTo n hd e
  obtain ⟨hinf, hfinite⟩ := hrounds.packable.packsTo neg
  rw [hX, hpack]
  refine ⟨fun hbig => hinf (hrounds.overflow_iff.2 hbig), fun hsmall => ?_⟩
  obtain ⟨x, hx, hneg, hvalue, hlast⟩ := hfinite (not_le.1 (mt hrounds.overflow_iff.1 (not_le.2 hsmall)))
  refine ⟨x, hx, hneg, fun y => ?_⟩
  change |valueF64 x - signValue neg * (n / d) * 2 ^ e| ≤ |valueF64 y - signValue neg * (n / d) * 2 ^ e| ∧
    (|valueF64 x - signValue neg * (n / d) * 2 ^ e| = |valueF64 y - signValue neg * (n / d) * 2 ^ e| → _)
  have hmag : signValue neg * valueF64 x = q * 2 ^ u := by rw [hvalue, ← mul_assoc, signValue_mul_self, one_mul]
  rw [mul_assoc, hX, abs_sub_signValue_mul, abs_sub_signValue_mul, hmag]
  obtain ⟨hle, heven⟩ := hrounds.nearest_finite neg y
  refine ⟨hle, fun htie hne => ?_⟩
  have hq := heven htie fun heq => hne ?_
  · rw [hlast, hq]
    rfl
  · rw [hvalue, ← heq, ← mul_assoc, signValue_mul_self, one_mul]

/-! ## Exact results -/

/-- A magnitude of 53 bits is its own rounding. -/
theorem RoundsTo.eq_of_representable {z : ℚ} {q : Nat} {u : Int} (h : RoundsTo z q u) {m : Nat} {g : Int} (hm : m < 2 ^ 53)
    (hg : -1074 ≤ g) (hz : z * 2 ^ u = m * 2 ^ g) : (q : ℚ) = z := by
  have hpos : (0 : ℚ) < 2 ^ u := two_zpow_pos u
  rcases multiple_or_lt hm hg u with ⟨k, hk⟩ | ⟨hu, hlt⟩
  · have hzk : z = k := mul_right_cancel₀ hpos.ne' (hz.trans hk)
    have hnear := (h.nearest.le_of_int k).1
    rw [← hzk, sub_self, abs_zero] at hnear
    exact sub_eq_zero.1 (abs_nonpos_iff.1 hnear)
  · rw [← hz] at hlt
    exact absurd (h.normal hu) (not_le.2 (lt_of_mul_lt_mul_right hlt hpos.le))

/-- `r` is the finite number with sign `neg` and magnitude `X`. -/
def IsF64 (r : F64) (neg : Bool) (X : ℚ) : Prop := ∃ x, r = .finite x ∧ x.neg = neg ∧ valueF64 x = signValue neg * X

/-- R138: a magnitude of 53 bits within the range of the finite numbers is not rounded. -/
theorem roundF64_exact {n d m : Nat} {e g : Int} (neg : Bool) (hd : 0 < d) (hm : m < 2 ^ 53) (hg : -1074 ≤ g) (hg' : g ≤ 971)
    (hX : (n : ℚ) / d * 2 ^ e = m * 2 ^ g) : IsF64 (roundF64 neg n d e) neg (m * 2 ^ g) := by
  obtain ⟨z, q, u, hz, hrounds, hpack⟩ := roundF64_roundsTo n hd e
  have hq : (q : ℚ) * 2 ^ u = m * 2 ^ g := by rw [hrounds.eq_of_representable hm hg (hz.symm.trans hX), ← hz, hX]
  have hlt : (q : ℚ) * 2 ^ u < 2 ^ (1024 : Int) := hq ▸ (mul_two_zpow_lt hm g).trans_le (two_zpow_le (by omega))
  obtain ⟨x, hx, hneg, hvalue, -⟩ := (hrounds.packable.packsTo neg).finite hlt
  exact ⟨x, (hpack neg).trans hx, hneg, hvalue.trans (by rw [hq])⟩

theorem f64OfNat_exact {i : Nat} (hi : i < 2 ^ 53) : IsF64 (f64OfNat i) false i := by
  have h := roundF64_exact (n := i) (d := 1) (e := 0) (m := i) (g := 0) false one_pos hi (by norm_num) (by norm_num) (by simp)
  simpa [f64OfNat] using h

/-- A quotient of positive numbers that has 53 bits is exact. -/
theorem divF64_exact {a b : F64} {X Y : ℚ} (ha : IsF64 a false X) (hb : IsF64 b false Y) (hY : Y ≠ 0) {m : Nat} {g : Int}
    (hm : m < 2 ^ 53) (hg : -1074 ≤ g) (hg' : g ≤ 971) (hq : X / Y = m * 2 ^ g) : IsF64 (divF64 a b) false (X / Y) := by
  obtain ⟨x, rfl, hxneg, hx⟩ := ha
  obtain ⟨y, rfl, hyneg, hy⟩ := hb
  have hX : (significand x : ℚ) * 2 ^ exponent x = X := by simpa [valueF64_eq, hxneg, signValue] using hx
  have hYeq : (significand y : ℚ) * 2 ^ exponent y = Y := by simpa [valueF64_eq, hyneg, signValue] using hy
  have hsig : significand y ≠ 0 := by
    rintro h0
    rw [h0, Nat.cast_zero, zero_mul] at hYeq
    exact hY hYeq.symm
  have hquot : (significand x : ℚ) / significand y * 2 ^ (exponent x - exponent y) = X / Y := by
    rw [← hX, ← hYeq, zpow_sub₀ two_ne_zero, div_mul_div_comm]
  rw [divF64, if_neg hsig, hxneg, hyneg, hq]
  exact roundF64_exact _ (Nat.pos_of_ne_zero hsig) hm hg hg' (hquot.trans hq)

theorem signedSignificand_mul (x : FiniteF64) : (signedSignificand x : ℚ) * 2 ^ exponent x = valueF64 x := by
  rw [valueF64_eq, signedSignificand, signValue]
  split <;> simp

/-- The sum of the significands at their common exponent. -/
theorem sum_at_exponent {a b : Int} {e f u : Int} (he : u ≤ e) (hf : u ≤ f) :
    ((a * 2 ^ (e - u).toNat + b * 2 ^ (f - u).toNat : Int) : ℚ) * 2 ^ u = a * 2 ^ e + b * 2 ^ f := by
  have hshift : ∀ e, u ≤ e → (2 : ℚ) ^ (e - u).toNat * 2 ^ u = 2 ^ e := fun e he => by
    rw [← zpow_natCast, Int.toNat_of_nonneg (sub_nonneg.2 he), ← zpow_add₀ two_ne_zero, sub_add_cancel]
  push_cast
  rw [add_mul, mul_assoc, mul_assoc, hshift e he, hshift f hf]

/-- A sum that has 53 bits is exact; it has the sign of its value, where the operands are not both negative. -/
theorem addFinite_exact {x y : FiniteF64} {m : Nat} {g : Int} (hneg : (x.neg && y.neg) = false) (hm : m < 2 ^ 53)
    (hg : -1074 ≤ g) (hg' : g ≤ 971) (hX : |valueF64 x + valueF64 y| = m * 2 ^ g) :
    IsF64 (addFinite x y) (decide (valueF64 x + valueF64 y < 0)) |valueF64 x + valueF64 y| := by
  have hsum := sum_at_exponent (a := signedSignificand x) (b := signedSignificand y)
    (min_le_left (exponent x) (exponent y)) (min_le_right (exponent x) (exponent y))
  rw [signedSignificand_mul, signedSignificand_mul] at hsum
  rw [addFinite]
  generalize min (exponent x) (exponent y) = u at hsum ⊢
  generalize signedSignificand x * 2 ^ (exponent x - u).toNat + signedSignificand y * 2 ^ (exponent y - u).toNat = sum
    at hsum ⊢
  have hpos : (0 : ℚ) < 2 ^ u := two_zpow_pos u
  rw [← hsum] at hX ⊢
  split_ifs with hzero
  · rw [hneg, hzero]
    refine ⟨zeroF64 false, rfl, by simp [zeroF64], ?_⟩
    simp [valueF64_eq, zeroF64, significand]
  · have hlt : (sum : ℚ) * 2 ^ u < 0 ↔ sum < 0 := by
      rw [← Int.cast_lt_zero (R := ℚ)]
      exact ⟨fun h => neg_of_mul_neg_left h hpos.le, fun h => mul_neg_of_neg_of_pos h hpos⟩
    simp only [hlt]
    rw [hX]
    refine roundF64_exact _ one_pos hm hg hg' ?_
    rw [← hX, abs_mul, abs_of_pos hpos, Nat.cast_one, div_one, Nat.cast_natAbs, Int.cast_abs]

/-! ## The dequantiser's input -/

/-- R134: `v = s / 2^nb - 0.5` has 53 bits, and so have its quotient and its operands. -/
theorem normalized_exact {nb v : Nat} (hnb : nb ≤ 14) (hv : v < 2 ^ nb) :
    IsF64 (normalized nb v) (decide ((v : ℚ) / 2 ^ nb - 1 / 2 < 0)) |(v : ℚ) / 2 ^ nb - 1 / 2| := by
  have hpow : 2 ^ nb ≤ 2 ^ 14 := Nat.pow_le_pow_right (by norm_num) hnb
  have hden : IsF64 (f64OfNat (2 ^ nb)) false ((2 : ℚ) ^ nb) := by
    simpa using f64OfNat_exact (i := 2 ^ nb) (by omega)
  have hquot : (v : ℚ) / 2 ^ nb = v * 2 ^ (-nb : Int) := by rw [zpow_neg, zpow_natCast, div_eq_mul_inv]
  obtain ⟨c, hc, hcneg, hcvalue⟩ := divF64_exact (f64OfNat_exact (i := v) (by omega)) hden (by positivity)
    (m := v) (g := -nb) (by omega) (by omega) (by omega) hquot
  rw [signValue, if_neg (by decide), one_mul] at hcvalue
  have hhalf : valueF64 ⟨true, 1022, 0⟩ = -(1 / 2) := by
    norm_num [valueF64, significand, exponent]
  have hdiff : |valueF64 c + valueF64 ⟨true, 1022, 0⟩| =
      (2 * (v : Int) - (2 ^ nb : Nat)).natAbs * 2 ^ (-nb - 1 : Int) := by
    rw [hcvalue, hhalf, Nat.cast_natAbs, Int.cast_abs, ← abs_of_pos (two_zpow_pos (-nb - 1)), ← abs_mul,
      zpow_sub_one₀ two_ne_zero, zpow_neg, zpow_natCast]
    push_cast
    congr 1
    field_simp
    ring
  have hsum := addFinite_exact (x := c) (y := ⟨true, 1022, 0⟩) (by rw [hcneg]; rfl) (by omega) (by omega) (by omega) hdiff
  rw [hcvalue, hhalf, ← sub_eq_add_neg] at hsum
  rw [normalized, hc]
  exact hsum

/-- A number whose magnitude is 0 is the zero of its sign. -/
theorem IsF64.eq_zero {r : F64} {neg : Bool} (h : IsF64 r neg 0) : r = .finite (zeroF64 neg) := by
  obtain ⟨x, rfl, rfl, hvalue⟩ := h
  have hsig : significand x = 0 := by
    rw [valueF64_eq, mul_zero] at hvalue
    have hsign : signValue x.neg ≠ 0 := left_ne_zero_of_mul_eq_one (signValue_mul_self x.neg)
    simpa [hsign, (two_zpow_pos (exponent x)).ne'] using hvalue
  rw [← eq_zeroF64_of_significand_eq_zero hsig]

/-- The sign and the magnitude of a number make the number. -/
theorem signValue_mul_abs (X : ℚ) : signValue (decide (X < 0)) * |X| = X := by
  rcases lt_or_ge X 0 with h | h
  · simp [signValue, h, abs_of_neg]
  · simp [signValue, not_lt.2 h, abs_of_nonneg h]

/-- The middle code is `2^(nb-1)`. -/
theorem sub_half_neg_iff {nb v : Nat} (hnb : 1 ≤ nb) : (v : ℚ) / 2 ^ nb - 1 / 2 < 0 ↔ v < 2 ^ (nb - 1) := by
  obtain ⟨k, rfl⟩ := Nat.exists_eq_add_of_le' hnb
  rw [sub_neg, div_lt_div_iff₀ (by positivity) two_pos, one_mul, pow_succ, mul_lt_mul_iff_of_pos_right two_pos]
  exact_mod_cast Iff.rfl

theorem sub_half_eq_zero {nb : Nat} (hnb : 1 ≤ nb) : ((2 ^ (nb - 1) : Nat) : ℚ) / 2 ^ nb - 1 / 2 = 0 := by
  obtain ⟨k, rfl⟩ := Nat.exists_eq_add_of_le' hnb
  rw [Nat.add_sub_cancel, pow_succ]
  push_cast
  field_simp
  norm_num

/-- R134: the middle code gives `+0.0`. -/
theorem normalized_middle {nb : Nat} (hlo : 1 ≤ nb) (hhi : nb ≤ 14) : normalized nb (2 ^ (nb - 1)) = f64Zero := by
  have hexact := normalized_exact hhi (v := 2 ^ (nb - 1)) (Nat.pow_lt_pow_right (by norm_num) (by omega))
  rw [sub_half_eq_zero hlo, abs_zero] at hexact
  exact hexact.eq_zero

/-- Settles O42: quotient and difference have 53 bits, and the zero difference of the middle code has no sign. -/
theorem dequantizerInputExact : Obligations.DequantizerInputExact := by
  intro nb v hlo hhi hv
  obtain ⟨x, hx, -, hvalue⟩ := normalized_exact hhi hv
  rw [signValue_mul_abs] at hvalue
  refine ⟨x, hx, hvalue, ?_⟩
  rintro rfl
  exact F64.finite.inj (hx.symm.trans (normalized_middle hlo hhi))

/-! ## The sign of a sample -/

/-- `r` is a finite number or an infinity, with sign `neg`. -/
def HasSign (r : F64) (neg : Bool) : Prop := (∃ x, r = .finite x ∧ x.neg = neg) ∨ r = .inf neg

theorem HasSign.ne_nan {r : F64} {neg : Bool} (h : HasSign r neg) : r ≠ .nan := by
  obtain ⟨x, rfl, -⟩ | rfl := h <;> exact nofun

theorem IsF64.hasSign {r : F64} {neg : Bool} {X : ℚ} (h : IsF64 r neg X) : HasSign r neg := by
  obtain ⟨x, hx, hneg, -⟩ := h
  exact .inl ⟨x, hx, hneg⟩

/-- R138: rounding keeps the sign, whether it overflows or not. -/
theorem hasSign_roundF64 (neg : Bool) (n : Nat) {d : Nat} (hd : 0 < d) (e : Int) : HasSign (roundF64 neg n d e) neg := by
  obtain ⟨z, q, u, -, hrounds, hpack⟩ := roundF64_roundsTo n hd e
  obtain ⟨hoverflow, hfinite⟩ := hrounds.packable.packsTo neg
  rw [hpack]
  rcases le_or_gt (2 ^ (1024 : Int)) ((q : ℚ) * 2 ^ u) with hbig | hsmall
  · exact .inr (hoverflow hbig)
  · obtain ⟨x, hx, hneg, -⟩ := hfinite hsmall
    exact .inl ⟨x, hx, hneg⟩

/-- R142: a positive normal factor keeps the sign, and makes no NaN of an infinity. -/
theorem HasSign.mul_positive {r : F64} {neg : Bool} (h : HasSign r neg) {y : FiniteF64} (hneg : y.neg = false)
    (hnormal : y.expo ≠ 0) : HasSign (mulF64 r (.finite y)) neg := by
  obtain ⟨x, rfl, rfl⟩ | rfl := h
  · rw [mulF64, hneg, Bool.bne_false]
    exact hasSign_roundF64 _ _ one_pos _
  · rw [mulF64, if_neg (significand_pos_of_normal hnormal).ne', hneg, Bool.bne_false]
    exact .inr rfl

theorem mulF64_zero_positive {y : FiniteF64} (hneg : y.neg = false) : mulF64 f64Zero (.finite y) = f64Zero := by
  have hsig : significand (zeroF64 false) = 0 := rfl
  rw [f64Zero, mulF64, hsig, Nat.zero_mul, roundF64_zero, hneg]
  rfl

/-- Settles O44: the dequantiser's input has the sign of its difference, and the positive factors keep sign and zero. -/
theorem sampleSignFollowsCode : Obligations.SampleSignFollowsCode := by
  intro linear sf nb scf v hlinear hsf hzero hfifteen hv
  have hlo : 1 ≤ nb.toNat := by bv_omega
  have hhi : nb.toNat ≤ 14 := by bv_omega
  obtain ⟨hlneg, hlnormal⟩ := hlinear ⟨nb.toNat - 1, by omega⟩
  obtain ⟨hsneg, hsnormal⟩ := hsf scf.toFin
  have hsign : HasSign (normalized nb.toNat v) (decide (v < 2 ^ (nb.toNat - 1))) := by
    simpa only [sub_half_neg_iff hlo] using (normalized_exact hhi hv).hasSign
  have hsample := (hsign.mul_positive hlneg hlnormal).mul_positive hsneg hsnormal
  refine ⟨_, sampleOf_of_factor hzero (by omega), hsample.ne_nan, hsample, ?_⟩
  rintro rfl
  rw [scaled, normalized_middle hlo hhi, mulF64_zero_positive hlneg, mulF64_zero_positive hsneg]
  rfl

/-! ## Overflow of a sample -/

/-- `2^1023`, a normal number. -/
def hugeF64 : FiniteF64 := ⟨false, 2046, 0⟩

theorem scaled_hugeF64 : scaled 2 3 hugeF64 hugeF64 = .inf false := by decide +kernel

/-- Refutes O45: with `2^1023` in both tables the sample of `s = 3` of width 2, `0.25 * 2^2046`, is an infinity. -/
theorem not_normalTablesGiveFiniteSamples : ¬ Obligations.NormalTablesGiveFiniteSamples := by
  intro h
  obtain ⟨x, hx⟩ := h (fun _ => hugeF64) (fun _ => hugeF64) 2#4 0#6 3 (fun _ => by decide) (fun _ => by decide) (by decide)
    (by decide) (by decide)
  rw [sampleOf_of_factor (by decide) (by decide)] at hx
  have hinf : scaled 2 3 hugeF64 hugeF64 = .finite x := Except.ok.inj hx
  rw [scaled_hugeF64] at hinf
  cases hinf

end Sys2Proof.Machine
end

section
/-! The outcomes of 60_exceptions: the three classes that every command's end falls into (R150 to R153), and the checks
that reject a command (R155). -/

namespace Sys2Proof.Machine

variable {i : Instr} {s t run : State} {ready : Bool} {body : Except Code State}

/-! ## The classes of outcomes -/

/-- R153: command `i` can die of a fatal fault with code `c`. -/
def CanDieOf (i : Instr) (c : Code) : Prop :=
  ((∃ n, i = .rdbits n) ∨ i = .rdalloc ∨ i = .rdscf ∨ i = .rdsmp ∨ i = .decl1) ∧
    (c = .endOfStream ∨ (c = .linearIndexRange ∧ (i = .rdsmp ∨ i = .decl1)))

theorem CanDieOf.code_cases {c : Code} (h : CanDieOf i c) : c = .endOfStream ∨ c = .linearIndexRange :=
  h.2.imp_right And.left

/-- How a command that is neither rejected nor dies ends (R150, R151): OK or a normal non-OK code, and `DEAD` is not set. -/
structure Completed (s t : State) : Prop where
  code : t.code = .ok ∨ t.code = .endOfStream ∨ t.code = .scanEnd
  dead : t.dead = true → s.dead = true

/-- R150: how command `i` can end from `s`. -/
inductive EndsIn (i : Instr) (s : State) : State → Prop where
  | completed {t : State} (h : Completed s t) : EndsIn i s t
  | rejected (c : Code) : EndsIn i s (s.reject c)
  | died {c : Code} (h : CanDieOf i c) : EndsIn i s (s.fatal c)

theorem EndsIn.checkByteLevel (h : EndsIn i s run) : EndsIn i s (s.checkByteLevel run) := by
  obtain ⟨-, e⟩ | ⟨-, -, e⟩ | ⟨-, -, e⟩ := s.checkByteLevel_cases run
  · rw [e]; exact .rejected _
  · rw [e]; exact .rejected _
  · rwa [e]

theorem EndsIn.checkDecoder (h : EndsIn i s run) : EndsIn i s (s.checkDecoder ready run) := by
  obtain ⟨-, e⟩ | ⟨-, -, e⟩ | ⟨-, -, e⟩ := s.checkDecoder_cases run ready
  · rw [e]; exact .rejected _
  · rw [e]; exact .rejected _
  · rwa [e]

/-- A body's success completes OK, its failure is the fatal fault. -/
theorem endsIn_settle (hok : ∀ t, body = .ok t → SameOutsideDecoder s t) (herror : ∀ c, body = .error c → CanDieOf i c) :
    EndsIn i s (s.settle body) := by
  cases body with
  | ok t => exact .completed ⟨.inl rfl, fun hdead => (hok t rfl).dead_eq ▸ hdead⟩
  | error c => exact .died (herror c rfl)

theorem completed_peeked (s : State) : Completed s s.peeked := by
  refine ⟨?_, s.peeked_dead ▸ id⟩
  obtain ⟨-, e⟩ | ⟨-, e⟩ := s.peeked_cases
  · rw [e]; exact .inl rfl
  · rw [e]; exact .inr (.inl rfl)

theorem completed_scanned (s : State) : Completed s s.scanned := by
  obtain ⟨_, _, -, e⟩ | ⟨_, -, e⟩ := s.scanned_cases
  · rw [e]; exact ⟨.inl rfl, id⟩
  · rw [e]; exact ⟨.inr (.inr rfl), id⟩

theorem endsIn_bitsRead (n : BitVec 8) (s : State) : EndsIn (.rdbits n) s (s.bitsRead n.toNat) := by
  obtain ⟨_, _, -, e⟩ | ⟨-, e⟩ := s.bitsRead_cases n.toNat
  · rw [e]; exact .completed ⟨.inl rfl, id⟩
  · rw [e]; exact .died ⟨.inl ⟨n, rfl⟩, .inl rfl⟩

theorem endsIn_rdbits {n : BitVec 8} (h : exec (.rdbits n) s = .next t) : EndsIn (.rdbits n) s t := by
  obtain ⟨-, rfl⟩ | ⟨-, -, rfl⟩ | ⟨-, -, rfl⟩ := execRdbits_cases h
  · exact .rejected _
  · exact .rejected _
  · exact endsIn_bitsRead n s

theorem completed_parse (h : exec .parse s = .next t) : Completed s t := by
  cases h
  rw [State.latch_eq]
  exact ⟨.inl rfl, id⟩

/-- R150: every command ends in one of the three classes. -/
theorem exec_endsIn (h : exec i s = .next t) : EndsIn i s t := by
  cases i with
  | reset => cases h; exact .completed ⟨.inl rfl, nofun⟩
  | peek => cases h; exact .checkByteLevel (.completed (completed_peeked s))
  | rdbits n => exact endsIn_rdbits h
  | parse => exact .completed (completed_parse h)
  | scan => cases h; exact .checkByteLevel (.completed (completed_scanned s))
  | rdalloc =>
    cases h
    exact .checkDecoder (endsIn_settle (fun _ => sameOutsideDecoder_allocBody) fun c hc =>
      ⟨by simp, .inl (s.allocBody_error c hc)⟩)
  | rdscf =>
    cases h
    exact .checkDecoder (endsIn_settle (fun _ => sameOutsideDecoder_scfBody) fun c hc =>
      ⟨by simp, .inl (s.scfBody_error c hc)⟩)
  | rdsmp =>
    cases h
    exact .checkDecoder (endsIn_settle (fun _ => sameOutsideDecoder_samplesBody) fun c hc =>
      ⟨by simp, (s.samplesBody_error c hc).imp_right fun hrange => ⟨hrange, .inl rfl⟩⟩)
  | decl1 =>
    cases h
    exact .checkDecoder (endsIn_settle (fun _ => sameOutsideDecoder_decodeBody) fun c hc =>
      ⟨by simp, (s.decodeBody_error c hc).imp_right fun hrange => ⟨hrange, .inr rfl⟩⟩)

/-- Settles O46: only a rejection ends with one of its codes, and it writes `CODE` and `ERR`. -/
theorem rejectionsChangeStatusOnly : Obligations.RejectionsChangeStatusOnly := by
  intro i s t h hcode
  cases exec_endsIn h with
  | completed hdone =>
    rcases hdone.code with hc | hc | hc <;> simp [hc] at hcode
  | rejected c => rfl
  | died hdie =>
    rw [State.fatal_code] at hcode
    rcases hdie.code_cases with rfl | rfl <;> simp at hcode

/-- Settles O47: of the three classes only the fatal fault sets `DEAD`. -/
theorem fatalFaultsPoison : Obligations.FatalFaultsPoison := by
  intro i s t h halive hdead
  cases exec_endsIn h with
  | completed hdone => simp [hdone.dead hdead] at halive
  | rejected c => rw [State.reject_dead, halive] at hdead; cases hdead
  | died hdie => exact ⟨hdie.1, hdie.2, fatalOf_fatal s _⟩

/-! ## The idle unit -/

/-- Settles O5: a step performs the host's next action, and there is none. -/
theorem idleUnitUnchanged : Obligations.IdleUnitUnchanged := fun _ => step_idle

/-! ## The checks -/

theorem State.checkDecoder_of_dead (hdead : s.dead = true) : s.checkDecoder ready run = s.reject .streamDead :=
  if_pos hdead

theorem State.checkDecoder_of_not_ready (hdead : s.dead = false) (hready : ready = false) :
    s.checkDecoder ready run = s.reject .sequenceError := by
  simp [State.checkDecoder, hdead, hready]

theorem execScan_of_held (hdead : s.dead = false) (hlen : s.stream.cacheLen ≠ 0) :
    exec .scan s = .next (s.reject .cacheNotEmpty) :=
  congrArg Host.Outcome.next (State.checkByteLevel_of_held hdead hlen)

theorem execRdalloc_of_no_header (hdead : s.dead = false) (hhv : s.hv = false) :
    exec .rdalloc s = .next (s.reject .sequenceError) :=
  congrArg Host.Outcome.next (State.checkDecoder_of_not_ready hdead hhv)

theorem execDecl1_of_no_header (hdead : s.dead = false) (hhv : s.hv = false) :
    exec .decl1 s = .next (s.reject .sequenceError) :=
  congrArg Host.Outcome.next (State.checkDecoder_of_not_ready hdead hhv)

theorem State.readyForScf_eq_false (h : s.hv = false ∨ s.av = false) : s.readyForScf = false :=
  Bool.and_eq_false_iff.2 h

theorem State.readyForSamples_eq_false (h : s.hv = false ∨ s.av = false ∨ s.sv = false) : s.readyForSamples = false := by
  rwa [State.readyForSamples, Bool.and_eq_false_iff, Bool.and_eq_false_iff, or_assoc]

theorem execRdscf_of_missing (hdead : s.dead = false) (h : s.hv = false ∨ s.av = false) :
    exec .rdscf s = .next (s.reject .sequenceError) :=
  congrArg Host.Outcome.next (State.checkDecoder_of_not_ready hdead (State.readyForScf_eq_false h))

theorem execRdsmp_of_missing (hdead : s.dead = false) (h : s.hv = false ∨ s.av = false ∨ s.sv = false) :
    exec .rdsmp s = .next (s.reject .sequenceError) :=
  congrArg Host.Outcome.next (State.checkDecoder_of_not_ready hdead (State.readyForSamples_eq_false h))

/-- Settles O48: a legal width leaves RDBITS the check of `DEAD` first, as it is for the other commands. -/
theorem deadUnitRejects : Obligations.DeadUnitRejects := by
  intro i s hdead hreset hparse hwf
  cases i with
  | reset => exact absurd rfl hreset
  | parse => exact absurd rfl hparse
  | rdbits n =>
    obtain ⟨hlo, hhi⟩ := of_decide_eq_true hwf
    exact execRdbits_of_dead hlo hhi hdead
  | peek => exact execPeek_of_dead hdead
  | scan => exact congrArg Host.Outcome.next (State.checkByteLevel_of_dead hdead)
  | rdalloc => exact congrArg Host.Outcome.next (State.checkDecoder_of_dead hdead)
  | rdscf => exact congrArg Host.Outcome.next (State.checkDecoder_of_dead hdead)
  | rdsmp => exact congrArg Host.Outcome.next (State.checkDecoder_of_dead hdead)
  | decl1 => exact congrArg Host.Outcome.next (State.checkDecoder_of_dead hdead)

/-- Settles O49, one lemma per misuse. -/
theorem misuseRejected : Obligations.MisuseRejected := fun _ hdead =>
  ⟨execScan_of_held hdead, fun hhv => ⟨execRdalloc_of_no_header hdead hhv, execDecl1_of_no_header hdead hhv⟩,
    execRdscf_of_missing hdead, execRdsmp_of_missing hdead⟩

end Sys2Proof.Machine
end

section
/-! The hazards of 70_reset: what a frame leaves in the cache (R176), how it is read out, and that no step stops (R183). -/

namespace Sys2Proof.Machine

variable {s t : State}

/-! ## The bits a decoder command consumes -/

/-- R69, R86: a field moves the bit cursor by its width, 0 too. -/
theorem StreamOk.bitCursor_readField {src : Source} {st st' : BitStream} {n v : Nat} (hok : StreamOk src st)
    (h : readField src n st = some (v, st')) : bitCursor st' = bitCursor st + n := by
  by_cases hn : n = 0
  · subst hn
    cases (readField_zero src st).symm.trans h
    rfl
  · obtain ⟨-, rfl⟩ := hok.eq_of_readBits_eq_some (readField_pos src n st hn ▸ h)
    exact bitCursor_streamAt src _

/-- The loop, where it ends well, has moved the bit cursor by the widths of its fields. -/
theorem StreamOk.bitCursor_readEach {ι α : Type} {k : Nat} {src : Source} {width : ι → Nat} {place : ι → Fin k}
    {entry : ι → Nat → Except Code α} {is : List ι} {st st' : BitStream} {tab tab' : Vector (Option α) k}
    (hok : StreamOk src st) (h : readEach src width place entry is st tab = .ok (st', tab')) :
    bitCursor st' = bitCursor st + (is.map width).sum := by
  induction is generalizing st tab with
  | nil => cases h; rfl
  | cons i is ih =>
    rcases readEach_cons_cases src width place entry i is st tab with ⟨-, e⟩ | ⟨v, st₁, c, -, -, e⟩ | ⟨v, st₁, a, hr, -, e⟩
    · cases e ▸ h
    · cases e ▸ h
    · rw [ih (readField_streamOk src _ st v st₁ hok hr) (e ▸ h), hok.bitCursor_readField hr, List.map_cons, List.sum_cons,
        Nat.add_assoc]

/-- `t` meets R31.1 to R31.3, with its bit cursor `n` bits past that of `s`. -/
def Consumed (n : Nat) (s t : State) : Prop :=
  StreamOk t.src t.stream ∧ bitCursor t.stream = bitCursor s.stream + n

theorem Consumed.trans {u : State} {m n : Nat} (h : Consumed m s t) (h' : Consumed n t u) : Consumed (m + n) s u :=
  ⟨h'.1, by rw [h'.2, h.2, Nat.add_assoc]⟩

/-- R131. -/
theorem consumed_allocBody (hok : StreamOk s.src s.stream) (h : s.allocBody = .ok t) :
    Consumed (128 * s.headerChannels.val) s t := by
  obtain ⟨st, tab, hread, rfl⟩ := s.allocBody_ok t h
  exact ⟨readEach_streamOk _ _ _ _ _ _ _ _ _ hok hread, sum_map_allocWidth _ ▸ hok.bitCursor_readEach hread⟩

/-- R132. -/
theorem consumed_scfBody (hok : StreamOk s.src s.stream) (h : s.scfBody = .ok t) : Consumed (6 * s.nonzeroCodes) s t := by
  obtain ⟨st, tab, hread, rfl⟩ := s.scfBody_ok t h
  exact ⟨readEach_streamOk _ _ _ _ _ _ _ _ _ hok hread, sum_map_scfWidth s _ ▸ hok.bitCursor_readEach hread⟩

/-- R133. -/
theorem consumed_samplesBody (hok : StreamOk s.src s.stream) (h : s.samplesBody = .ok t) :
    Consumed (12 * s.sumOfCodes) s t := by
  obtain ⟨st, tab, hread, rfl⟩ := s.samplesBody_ok t h
  refine ⟨readEach_streamOk _ _ _ _ _ _ _ _ _ hok hread, ?_⟩
  rw [State.sumOfCodes, ← sum_map_sampleOrder]
  exact hok.bitCursor_readEach hread

/-- R70, R136: the length of a frame's payload, counted on the codes that are left; the later sections keep the codes of
the first. -/
theorem consumed_decodeBody (hok : StreamOk s.src s.stream) (h : s.decodeBody = .ok t) :
    Consumed (128 * s.headerChannels.val + 6 * t.nonzeroCodes + 12 * t.sumOfCodes) s t := by
  obtain ⟨a, b, ha, hb, ht⟩ := s.decodeBody_ok t h
  have hfirst := consumed_allocBody hok ha
  have hsecond := consumed_scfBody hfirst.1 hb
  have hthird := consumed_samplesBody hsecond.1 ht
  obtain ⟨_, _, -, rfl⟩ := a.scfBody_ok b hb
  obtain ⟨_, _, -, rfl⟩ := State.samplesBody_ok _ t ht
  exact (hfirst.trans hsecond).trans hthird

/-! ## The bits left over after a frame -/

/-- R136, R150: DECL1 ends OK only past its checks, with what its body gives. -/
theorem execDecl1_ok (h : exec .decl1 s = .next t) (hcode : t.code = .ok) :
    s.dead = false ∧ ∃ u, s.decodeBody = .ok u ∧ t = u.complete .ok := by
  cases h
  obtain ⟨-, e⟩ | ⟨-, -, e⟩ | ⟨hdead, -, e⟩ := s.checkDecoder_cases (s.settle s.decodeBody) s.readyForAlloc
  · rw [e] at hcode; cases hcode
  · rw [e] at hcode; cases hcode
  · obtain ⟨u, hbody, hsettle⟩ | ⟨c, hbody, hsettle⟩ := s.settle_cases s.decodeBody
    · exact ⟨hdead, u, hbody, e.trans hsettle⟩
    · rw [e, hsettle, State.fatal_code] at hcode
      obtain rfl | rfl := s.decodeBody_error c hbody <;> cases hcode

/-- Settles O41: the payload takes `128 * nch + 6 * K + 12 * S` bits from a byte boundary on, and the cache holds the bits
up to the next one. -/
theorem leftOverBitsAfterFrame : Obligations.LeftOverBitsAfterFrame := by
  intro s t hinv hlen hexec hcode
  obtain ⟨hdead, u, hbody, rfl⟩ := execDecl1_ok hexec hcode
  obtain ⟨hok, hcur⟩ := consumed_decodeBody (hinv.stream_ok hdead) hbody
  have hheld := hok.bitCursor_add
  rw [hcur, bitCursor_of_empty hlen] at hheld
  have hlt : u.stream.cacheLen.toNat < 8 := u.stream.cacheLen.isLt
  change u.stream.cacheLen = 0#3 ↔ (u.nonzeroCodes + 2 * u.sumOfCodes) % 4 = 0
  rw [← BitVec.toNat_inj, BitVec.toNat_ofNat]
  omega

/-- R84: a bit read of all the cached bits returns them and touches no byte. -/
theorem readBits_cacheLen (src : Source) (st : BitStream) :
    readBits src st.cacheLen.toNat st = some (st.cache.toNat, ⟨0, 0, st.pos⟩) := by
  rw [readBits_cached src _ st le_rfl, takeBits, Nat.sub_self, Nat.pow_zero, Nat.div_one, Nat.mod_one]
  rfl

/-- Settles O20: a nonempty cache holds a legal width, which the cache alone serves. -/
theorem leftOverBitsReadOut : Obligations.LeftOverBitsReadOut := by
  intro s hdead hheld
  have hlt : s.stream.cacheLen.toNat < 8 := s.stream.cacheLen.isLt
  have hpos : s.stream.cacheLen.toNat ≠ 0 := fun h => hheld (BitVec.eq_of_toNat_eq h)
  have hn : (s.stream.cacheLen.setWidth 8).toNat = s.stream.cacheLen.toNat := by
    rw [BitVec.toNat_setWidth, Nat.mod_eq_of_lt (by omega)]
  have hexec := execRdbits_of_legal (n := s.stream.cacheLen.setWidth 8) (by omega) (by omega) hdead
  rw [hn, State.bitsRead, readBits_cacheLen] at hexec
  exact ⟨_, hexec, rfl, rfl, rfl, congrArg some (BitVec.ofNat_toNat 32 s.stream.cache)⟩

/-! ## No step stops -/

/-- R158: every command answers a next state. -/
theorem exec_completes (i : Instr) (s : State) : ∃ t, exec i s = .next t := by
  cases i with
  | reset | peek | rdbits | parse | scan | rdalloc | rdscf | rdsmp | decl1 => exact ⟨_, rfl⟩

/-- R63: a word that is no command is rejected. -/
theorem issue_completes (w : CmdWord) (s : State) : ∃ t, issue w s = .next t := by
  cases hdecode : decode w with
  | ok i => exact issue_of_decode hdecode ▸ exec_completes i s
  | error e => exact ⟨_, issue_of_illegal hdecode⟩

theorem perform_completes (a : HostAction) (s : State) : ∃ t, perform a s = .next t := by
  cases a with
  | write addr data =>
    rw [perform, hostWrite]
    split_ifs
    · exact issue_completes _ s
    · exact ⟨_, rfl⟩
    · exact ⟨_, rfl⟩
  | read addr => exact ⟨_, rfl⟩
  | resetInput => exact ⟨_, rfl⟩

/-- Settles O60: the unit idles or performs the host's next action. -/
theorem everyStepCompletes : Obligations.EveryStepCompletes := by
  intro s
  cases hhost : s.host with
  | nil => exact ⟨_, step_idle hhost⟩
  | cons a rest => exact step_cons s a rest hhost ▸ perform_completes a _

end Sys2Proof.Machine
end

section
/-! PARSE of a `WDATA` that was never written (spec 41_frame_header R100, 93_implementation_defined U14). -/

namespace Sys2Proof.Machine

variable {s : State}

/-- R100, with the choice of U14: a `WDATA` without value gives a free word, which costs one draw. -/
theorem execParse_of_no_wdata (hw : s.wdata = none) :
    exec .parse s = .next { s.invalidateTables.latch (Config.freeBits 32 s.draws 0) with
      code := .ok, draws := s.draws + 1 } := by
  simp only [exec, execParse, State.wdataWord, State.drawsAfterWdata, hw]
  rfl

@[simp] theorem State.latch_wdata (s : State) (w : Word) : (s.latch w).wdata = s.wdata := by
  rw [State.latch_eq]

/-- R100: the header that is latched depends on the word alone, not on what `WDATA` holds. -/
theorem State.latch_with_wdata (s : State) (w : Word) (v : Option Word) :
    ({ s with wdata := v } : State).latch w = { s.latch w with wdata := v } := by
  by_cases hw : isHeader w = true
  · rw [State.latch_of_header hw, State.latch_of_header hw]
  · rw [State.latch_of_not_header hw, State.latch_of_not_header hw]

/-- R100: PARSE after a write of `w` to `WDATA` does to the state before the write what latching `w` does. -/
theorem execParse_with_wdata (s : State) (w : Word) :
    exec .parse { s with wdata := some w } =
      .next { s.invalidateTables.latch w with wdata := some w, code := .ok, draws := s.draws } := by
  calc exec .parse { s with wdata := some w }
    _ = .next { ({ s.invalidateTables with wdata := some w } : State).latch w with code := .ok, draws := s.draws } :=
      execParse_of_wdata rfl
    _ = _ := by rw [State.latch_with_wdata]

/-- Settles O22: the word is the free word that PARSE draws. Written to `WDATA`, it is latched the same way. -/
theorem parseWithoutOperandEndsOk : Obligations.ParseWithoutOperandEndsOk := by
  intro s hw
  exact ⟨Config.freeBits 32 s.draws 0, _, execParse_of_no_wdata hw, execParse_with_wdata s _, rfl,
    (s.invalidateTables.latch_wdata _).trans hw⟩

end Sys2Proof.Machine
end
